-- ==== Sys2Proof/Word.lean ====
section
/-! DEFINITION. The value types of the block: bytes, the output state, the status payload. -/

namespace Sys2Proof

/-- R5: an unsigned 8-bit value; bit 7 is the most significant bit. The block only compares bytes for equality. -/
abbrev Byte := BitVec 8

/-- R10: "one of {Off, Output1, Output2, Output3}"; no fifth value and no combination of two outputs. -/
inductive OutputState where
  | off
  | output1
  | output2
  | output3
  deriving DecidableEq, Repr, Inhabited

/-- R51, format S16: the 2-byte content of SignalOutput, `echo` at offset 0 and `status` at offset 1 (R33). -/
structure Payload where
  echo : Byte
  status : Byte
  deriving DecidableEq, Repr, Inhabited

end Sys2Proof
end

