-- ==== Sys2Proof/Config.lean ====
section
/-! DEFINITION. The configuration record of R4, its fixed layout constants, and the free values (no body) of what the
spec leaves open. -/

namespace Sys2Proof

/-- R4, D15: the eight literals as configuration, the source's values as defaults (log 1). -/
structure Config where
  cmdOff : Byte := 0x00#8
  cmdOut1 : Byte := 0x11#8
  cmdOut2 : Byte := 0x22#8
  cmdOut3 : Byte := 0x33#8
  stOff : Byte := 0xDD#8
  stOut1 : Byte := 0xAA#8
  stOut2 : Byte := 0xBB#8
  stOut3 : Byte := 0xCC#8
  deriving DecidableEq, Repr

namespace Config

/-- R142 `DefaultConfig`: the literals of R4; the configuration `exec` and `step` run on. -/
def source : Config := {}

/-- R4, R142 `DistinctCommands`: the four command bytes are pairwise distinct. -/
abbrev DistinctCommands (cfg : Config) : Prop :=
  cfg.cmdOff ≠ cfg.cmdOut1 ∧ cfg.cmdOff ≠ cfg.cmdOut2 ∧ cfg.cmdOff ≠ cfg.cmdOut3 ∧
    cfg.cmdOut1 ≠ cfg.cmdOut2 ∧ cfg.cmdOut1 ≠ cfg.cmdOut3 ∧ cfg.cmdOut2 ≠ cfg.cmdOut3

/-- R4 IN_OFFSET: where the command byte sits in SignalInput. -/
def inOffset : Nat := 0
/-- R4 IN_LEN. -/
def inLen : Nat := 1
/-- R4 OUT_OFFSET: where the status payload sits in SignalOutput. -/
def outOffset : Nat := 0
/-- R4 OUT_LEN. -/
def outLen : Nat := 2
/-- R4 N_OUTPUTS: the number of output lines. -/
def nOutputs : Nat := 3

/-- R4 OUTBUF_RESET, D3, U1: the two bytes of SignalOutput at `State.reset`; "a model ... assumes nothing of it".
DESIGN CHOICE (safe): a free value, log 2. -/
opaque outbufReset : Payload

/-- R25, D4, U2: INBUF at `State.reset`, "any value". DESIGN CHOICE (safe): a free value, log 3. -/
opaque inbufReset : Byte

/-- R4 PIN_ACTIVE_LEVEL, D7, U4: the electrical level of an active line; no rule reads it (R84), log 15. -/
opaque pinActiveLevel : Bool

end Config

end Sys2Proof
end

