-- ==== Sys2Proof/Syntax.lean ====
section
/-! DEFINITION. The command set as syntax: one constructor per row of spec/opcode_table.json (R53, R58). -/

namespace Sys2Proof

/-- R50, R52: a command is one byte with no operand. IGN stands for 252 byte values (R55), so its constructor carries
the raw byte it was decoded from (log 20); the byte changes no effect. -/
inductive Instr where
  /-- OFF, R66. -/
  | off
  /-- OUT1, R67. -/
  | out1
  /-- OUT2, R68. -/
  | out2
  /-- OUT3, R69. -/
  | out3
  /-- IGN, R70: a byte that no other row matches. -/
  | ign (b : Byte)
  deriving DecidableEq, Repr

end Sys2Proof
end

