-- ==== Sys2Proof/WellFormed.lean ====
section
/-! DEFINITION. Which terms of the syntax stand for a command. -/

namespace Sys2Proof

/-- 00_scope.md glossary, "recognised command": a byte equal to one of the four command literals. -/
def Config.recognised (cfg : Config) (b : Byte) : Bool :=
  b == cfg.cmdOff || b == cfg.cmdOut1 || b == cfg.cmdOut2 || b == cfg.cmdOut3

/-- R54, R70: IGN is taken exactly when no other row matches, so it never carries a recognised byte. The other four
commands have no operand and are always well formed. -/
def Instr.wellFormed (cfg : Config) : Instr → Bool
  | .off => true
  | .out1 => true
  | .out2 => true
  | .out3 => true
  | .ign b => !cfg.recognised b

end Sys2Proof
end

