-- ==== Sys2Proof/Decode.lean ====
section
/-! DEFINITION. The Command Decoder: the mapping of R65 and the table decoder of R54, both total on all 256 bytes; the
encoder, written from the same table; and the status map of R90. -/

namespace Sys2Proof

/-- R90: the status code of an output state. -/
def Config.status (cfg : Config) : OutputState → Byte
  | .off => cfg.stOff
  | .output1 => cfg.stOut1
  | .output2 => cfg.stOut2
  | .output3 => cfg.stOut3

/-- R65, word for word: `decode(byte) -> Option<(OutputState, StatusCode)>`. -/
def Config.decodeCommand (cfg : Config) (b : Byte) : Option (OutputState × Byte) :=
  if b = cfg.cmdOff then some (.off, cfg.stOff)
  else if b = cfg.cmdOut1 then some (.output1, cfg.stOut1)
  else if b = cfg.cmdOut2 then some (.output2, cfg.stOut2)
  else if b = cfg.cmdOut3 then some (.output3, cfg.stOut3)
  else none

/-- A non-default row of the opcode table, R54: `match` and `mask`, and the command the row names. -/
structure OpcodeRow where
  mask : Byte
  value : Byte
  instr : Instr
  deriving DecidableEq, Repr

/-- R54: `(byte & mask) == match`. -/
def OpcodeRow.hits (r : OpcodeRow) (b : Byte) : Bool := b &&& r.mask == r.value

/-- R53, R54: the four rows with mask 0xFF. -/
def Config.opcodeRows (cfg : Config) : List OpcodeRow :=
  [⟨0xFF#8, cfg.cmdOff, .off⟩, ⟨0xFF#8, cfg.cmdOut1, .out1⟩, ⟨0xFF#8, cfg.cmdOut2, .out2⟩,
    ⟨0xFF#8, cfg.cmdOut3, .out3⟩]

/-- R54: the first non-default row that matches, else the default row IGN. -/
def lookupRows (b : Byte) : List OpcodeRow → Instr
  | [] => .ign b
  | r :: rest => if r.hits b then r.instr else lookupRows b rest

/-- The instruction a command byte stands for in the configuration `cfg`. -/
def Config.decodeInstr (cfg : Config) (b : Byte) : Instr := lookupRows b cfg.opcodeRows

/-- Why a list of bytes is no command (R56: every command is exactly one byte). -/
inductive DecodeRefusal where
  /-- No byte at all. -/
  | noByte
  /-- More than one byte. -/
  | moreThanOneByte
  deriving DecidableEq, Repr

/-- R50, R56: one byte is one command; any other number of bytes is refused by name. -/
def Config.decodeBytes (cfg : Config) : List Byte → Except DecodeRefusal Instr
  | [] => .error .noByte
  | [b] => .ok (cfg.decodeInstr b)
  | _ :: _ :: _ => .error .moreThanOneByte

/-- The decoder of the machine: the source's literals (R142 `DefaultConfig`). -/
def decode (b : Byte) : Instr := Config.source.decodeInstr b

/-- The bytes of a command, from the table of R53. -/
def Config.encode (cfg : Config) : Instr → List Byte
  | .off => [cfg.cmdOff]
  | .out1 => [cfg.cmdOut1]
  | .out2 => [cfg.cmdOut2]
  | .out3 => [cfg.cmdOut3]
  | .ign b => [b]

/-- The encoder of the machine: the source's literals. -/
def encode (i : Instr) : List Byte := Config.source.encode i

/-- The last columns of the table of R53: the output state and the status code of a command, none for IGN. -/
def Instr.transition (cfg : Config) : Instr → Option (OutputState × Byte)
  | .off => some (.off, cfg.stOff)
  | .out1 => some (.output1, cfg.stOut1)
  | .out2 => some (.output2, cfg.stOut2)
  | .out3 => some (.output3, cfg.stOut3)
  | .ign _ => none

/-- The one byte of an instruction whose table bits are `w`: the bits from `nbits` up are 0. -/
def tableByte (nbits w : Nat) : Byte := BitVec.ofNat 8 (w % 2 ^ nbits)

/-- The instruction the decoder reads from the bits `w` of a table row of `nbits` bits; no command is longer than
one byte (R56). -/
def decodeTableWord (nbits w : Nat) : Option Instr :=
  if nbits ≤ 8 then some (decode (tableByte nbits w)) else none

end Sys2Proof
end

