-- ==== Sys2Proof/Machine/State.lean ====
section
/-! DEFINITION. The state of the block and of its interface (10_state.md), the moves of the agents, the reasons a step
can stop, and the state after reset. -/

namespace Sys2Proof.Machine

/-- R17: whether the dispatcher was ever entered. -/
inductive Run where
  | halted
  | running
  deriving DecidableEq, Repr

/-- The steps of the environment (R107, R108, R109) and of reset (R130). -/
inductive EnvStep where
  /-- R107 DELIVER(b). -/
  | deliver (b : Byte)
  /-- R108 TXRDY. -/
  | txrdy
  /-- R109 TX. -/
  | tx
  /-- R130 RESET(init_ok, r); `inbuf` is what INBUF holds afterwards, "any" by the step relation of 43_dispatch.md
  section 6. -/
  | reset (initOk : Bool) (outbuf : Payload) (inbuf : Byte)
  deriving DecidableEq, Repr

/-- One move of one agent. DESIGN CHOICE (safe): log 6 says how moves become steps, log 8 that a block move that is not
enabled changes nothing. -/
inductive Move where
  /-- A step of the environment or a reset. -/
  | env (e : EnvStep)
  /-- The block takes INBOUND (R101). -/
  | inbound
  /-- The block takes OUTBOUND (R102). -/
  | outbound
  /-- The block takes the step the deterministic runner chooses (D10: IN_FLAG is tested first). -/
  | block
  deriving DecidableEq, Repr

/-- The state: the seven items of 10_state.md section 1, and three fields of the model's own. -/
structure State where
  /-- RUN, R17. -/
  run : Run
  /-- OS, R10, R11. -/
  os : OutputState
  /-- LC, R12: `none` is the sentinel "none received yet". -/
  lc : Option Byte
  /-- OUTBUF, the content of SignalOutput, R14. -/
  outbuf : Payload
  /-- INBUF, the content of SignalInput, R15. -/
  inbuf : Byte
  /-- IN_FLAG, R16. -/
  inFlag : Bool
  /-- OUT_FLAG, R16. -/
  outFlag : Bool
  /-- The model's own: the parameter OUTBUF_RESET "given to the most recent reset step" (R25), log 10. -/
  outbufReset : Payload
  /-- The model's own: which agent moves next, oldest first (R42); when it is empty the block moves, log 6. -/
  agenda : List Move
  /-- The model's own: what the TX reads returned, newest first (R109), log 9. -/
  txReads : List Payload
  deriving DecidableEq, Repr

/-- Why the machine stops with a fault: never. R117 defines every run-time operation as total and 93_implementation_defined.md
treats no behaviour as a fault or stuck, so the type has no constructor (log 26; safe: nothing is left out). -/
inductive Fault where
  deriving DecidableEq, Repr

/-- Why a step has no meaning. -/
inductive Refusal where
  /-- Raised by `exec` for an instruction without a meaning (none is left). Safe: the machine stops. -/
  | notModelled (mnemonic : String)
  /-- Raised by `frameRead` and `frameWrite` for a request with a byte outside the signal or with none: R34, U5
  ("refuse"). No block step issues
  one. Safe: the machine stops. -/
  | signalAccess
  deriving DecidableEq, Repr

/-- R25: the state right after reset with INIT_OK true (DESIGN CHOICE, unsafe, log 5). OUTBUF and INBUF hold free
values (logs 2 and 3); the flags are 0 by the spec's decision D5 (log 4). -/
def State.reset : State where
  run := .running
  os := .off
  lc := none
  outbuf := Config.outbufReset
  inbuf := Config.inbufReset
  inFlag := false
  outFlag := false
  outbufReset := Config.outbufReset
  agenda := []
  txReads := []

end Sys2Proof.Machine
end

