-- ==== Sys2Proof/Machine/Ops.lean ====
section
/-! DEFINITION. The named operations over the signal buffers and the registers: MemRead and MemWrite (R31), `set` and
`current` (R80, R81), the output lines (R82), `encode` (R91) and the shared block of the recognised commands (R66 to
R69). Nothing takes an exception: the block has no trap entry and no trap return (R122, R123). -/

namespace Sys2Proof.Machine

/-- The outcome of one step of the block. -/
abbrev Result := Host.Outcome State Fault Refusal

/-- `f` after `o`, when `o` answers a next state. -/
def andThen (o : Result) (f : State → Result) : Result :=
  match o with
  | .next s => f s
  | .fault r => .fault r
  | .refused r => .refused r

/-! ### The signal buffers -/

/-- R30: the two address spaces. An address is a pair of a signal and an offset. -/
inductive SignalId where
  | signalInput
  | signalOutput
  deriving DecidableEq, Repr

/-- R30: the size of a signal in bytes. -/
def SignalId.size : SignalId → Nat
  | .signalInput => 1
  | .signalOutput => 2

/-- The bytes of a signal, offset 0 first (R6). -/
def signalBytes : SignalId → State → List Byte
  | .signalInput, s => [s.inbuf]
  | .signalOutput, s => [s.outbuf.echo, s.outbuf.status]

/-- The byte at one address; none where the address does not exist. -/
def readByte (sig : SignalId) (off : Nat) (s : State) : Option Byte := (signalBytes sig s)[off]?

/-- A request that moves at least one byte, every byte of it at an offset of the signal (R30, R31). Any other request,
one of length 0 among them, has no meaning and is refused (R34, U5; log 12). -/
abbrev SignalId.InRange (sig : SignalId) (off len : Nat) : Prop := 0 < len ∧ off + len ≤ sig.size

/-- R31 `frame_read_bytes`: `len` bytes from offset `off` up. A request not in range is refused (R34, U5). -/
def frameRead (sig : SignalId) (off len : Nat) (s : State) : Except Refusal (List Byte) :=
  if sig.InRange off len then .ok (((signalBytes sig s).drop off).take len) else .error .signalAccess

/-- The byte at offset `k` after the bytes `v` are stored from offset `off` up, `old` being the byte before. -/
def overlay (off : Nat) (v : List Byte) (k : Nat) (old : Byte) : Byte :=
  if off ≤ k then (v[k - off]?).getD old else old

/-- A store to a signal that holds all of its bytes. -/
def storeBytes (sig : SignalId) (off : Nat) (v : List Byte) (s : State) : State :=
  match sig with
  | .signalInput => { s with inbuf := overlay off v 0 s.inbuf }
  | .signalOutput => { s with outbuf := ⟨overlay off v 0 s.outbuf.echo, overlay off v 1 s.outbuf.status⟩ }

/-- R31 `frame_write_bytes`: `v[i]` at offset `off + i`, all bytes together (R36). A request not in range is refused (R34,
U5). -/
def frameWrite (sig : SignalId) (off : Nat) (v : List Byte) (s : State) : Result :=
  if sig.InRange off v.length then .next (storeBytes sig off v s) else .refused .signalAccess

/-! ### The registers -/

/-- R80 `set(variant)`. -/
def setOutput (v : OutputState) (s : State) : State := { s with os := v }

/-- R81 `current()`. -/
def current (s : State) : OutputState := s.os

/-- R101: `LC <- some b`. -/
def setLast (b : Byte) (s : State) : State := { s with lc := some b }

/-- R82: the three output lines. -/
inductive OutputLine where
  | line1
  | line2
  | line3
  deriving DecidableEq, Repr

/-- All of them (R4: N_OUTPUTS). -/
def outputLines : List OutputLine := [.line1, .line2, .line3]

/-- The variant that makes a line active. -/
def OutputLine.variant : OutputLine → OutputState
  | .line1 => .output1
  | .line2 => .output2
  | .line3 => .output3

/-- R82: `OUTk_ACTIVE = (OS == Outputk)`. -/
def outActive (k : OutputLine) (s : State) : Bool := s.os == k.variant

/-! ### The status payload and the recognised commands -/

/-- R91 `encode(l, c) = [l, c]`. -/
def encodePayload (l c : Byte) : List Byte := [l, c]

/-- The shared block of R66 to R69: `OS <- s; LC <- some b; MemWrite((SignalOutput, 0), 2, [b, c])`. -/
def acceptCommand (b : Byte) (v : OutputState) (c : Byte) (s : State) : Result :=
  frameWrite .signalOutput Config.outOffset (encodePayload b c) (setLast b (setOutput v s))

end Sys2Proof.Machine
end

