-- ==== Sys2Proof/Machine/Commands.lean ====
section
/-! DEFINITION. The meaning of each command (40_commands.md). A command writes no flag: the enclosing INBOUND step
clears IN_FLAG. The literals are those of the source's configuration (R4). -/

namespace Sys2Proof.Machine

/-- R66: `OS <- Off; LC <- some 0x00; OUTBUF <- [0x00, 0xDD]`. -/
def execOff (s : State) : Result :=
  acceptCommand Config.source.cmdOff .off Config.source.stOff s

/-- R67: `OS <- Output1; LC <- some 0x11; OUTBUF <- [0x11, 0xAA]`. -/
def execOut1 (s : State) : Result :=
  acceptCommand Config.source.cmdOut1 .output1 Config.source.stOut1 s

/-- R68: `OS <- Output2; LC <- some 0x22; OUTBUF <- [0x22, 0xBB]`. -/
def execOut2 (s : State) : Result :=
  acceptCommand Config.source.cmdOut2 .output2 Config.source.stOut2 s

/-- R69: `OS <- Output3; LC <- some 0x33; OUTBUF <- [0x33, 0xCC]`. -/
def execOut3 (s : State) : Result :=
  acceptCommand Config.source.cmdOut3 .output3 Config.source.stOut3 s

/-- R70: "nothing: OS, LC and OUTBUF keep their values; no MemWrite is issued". -/
def execIgn (_b : Byte) (s : State) : Result := .next s

end Sys2Proof.Machine
end

