-- ==== Sys2Proof/Machine/Dispatch.lean ====
section
/-! DEFINITION. One arm per command, each one call of its meaning. -/

namespace Sys2Proof.Machine

def exec (i : Instr) (s : State) : Host.Outcome State Fault Refusal :=
  match i with
  | .off => Sys2Proof.Machine.execOff s
  | .out1 => Sys2Proof.Machine.execOut1 s
  | .out2 => Sys2Proof.Machine.execOut2 s
  | .out3 => Sys2Proof.Machine.execOut3 s
  | .ign b => Sys2Proof.Machine.execIgn b s

end Sys2Proof.Machine
end

