-- ==== Sys2Proof/Machine/Flags.lean ====
section
/-! DEFINITION. The two frame flags (R16) and the flag calls the block has (R46). The block has no condition codes and
no operation writes a flag as a side effect of computing a value (R19). -/

namespace Sys2Proof.Machine

/-- R46: the two frame identifiers; symbolic names only (R37). -/
inductive FrameId where
  | inFrame
  | outFrame
  deriving DecidableEq, Repr

/-- R46 `frame_flag_test`: no side effect. -/
def flagTest : FrameId → State → Bool
  | .inFrame, s => s.inFlag
  | .outFrame, s => s.outFlag

/-- R46 `frame_flag_clear`: "each touches no other state". -/
def flagClear : FrameId → State → State
  | .inFrame, s => { s with inFlag := false }
  | .outFrame, s => { s with outFlag := false }

/-- The environment's side of a flag (R16: set once per frame occurrence; "a flag set while already 1 stays 1"). -/
def flagSet : FrameId → State → State
  | .inFrame, s => { s with inFlag := true }
  | .outFrame, s => { s with outFlag := true }

/-- R100: INBOUND is enabled. -/
def inboundEnabled (s : State) : Bool := s.run == .running && flagTest .inFrame s

/-- R100: OUTBOUND is enabled. -/
def outboundEnabled (s : State) : Bool := s.run == .running && flagTest .outFrame s

end Sys2Proof.Machine
end

