-- ==== Sys2Proof/Machine/Environment.lean ====
section
/-! DEFINITION. The environment's steps (R107 to R110) and reset (R130). -/

namespace Sys2Proof.Machine

/-- R107, R111: `INBUF <- b; IN_FLAG <- 1`; an undecoded byte is overwritten. -/
def deliver (b : Byte) (s : State) : State := flagSet .inFrame { s with inbuf := b }

/-- R108: `OUT_FLAG <- 1`. -/
def txReady (s : State) : State := flagSet .outFrame s

/-- R109: `observe MemRead((SignalOutput, 0), 2)`, both bytes at once; no state of the block is written. -/
def transmit (s : State) : State := { s with txReads := s.outbuf :: s.txReads }

/-- R130, R25: the whole state of the block is replaced; pending events are lost. The agenda and the record of the TX
reads are the environment's and stay (log 17). -/
def resetTo (initOk : Bool) (r : Payload) (i : Byte) (s : State) : State where
  run := if initOk then .running else .halted
  os := .off
  lc := none
  outbuf := r
  inbuf := i
  inFlag := false
  outFlag := false
  outbufReset := r
  agenda := s.agenda
  txReads := s.txReads

/-- One step of the environment, in any state. -/
def envStep : EnvStep → State → State
  | .deliver b, s => deliver b s
  | .txrdy, s => txReady s
  | .tx, s => transmit s
  | .reset initOk r i, s => resetTo initOk r i s

end Sys2Proof.Machine
end

