-- ==== Sys2Proof/Machine/Operands.lean ====
section
/-! DEFINITION. The operand forms: a command has none (R52). The only data a command carries is its own byte, which
the INBOUND step reads from SignalInput. -/

namespace Sys2Proof.Machine

/-- R32, R45, R101: `[b] <- MemRead((SignalInput, 0), 1)`. -/
def fetchCommand (s : State) : Except Refusal Byte :=
  match frameRead .signalInput Config.inOffset Config.inLen s with
  | .ok [b] => .ok b
  | .ok _ => .error .signalAccess
  | .error r => .error r

end Sys2Proof.Machine
end

