-- ==== Sys2Proof/Machine/FrameDispatcher.lean ====
section
/-! DEFINITION. The Frame Dispatcher (43_dispatch.md): the block's two steps, the choice between them, and the moves of
the agenda. The dispatcher takes its INBOUND step as an argument, so that the machine of the source's literals
(`inbound`, through the decoder and `exec`) and the pseudocode of R101 over any configuration (`inboundWith`) share one
text. -/

namespace Sys2Proof.Machine

/-- R101 on the machine: read the command byte, decode it, run it, and last clear IN_FLAG (R104). -/
def inbound (s : State) : Result :=
  match fetchCommand s with
  | .error r => .refused r
  | .ok b => andThen (exec (decode b) s) fun t => .next (flagClear .inFrame t)

/-- R101 as the spec writes it, for any configuration (R4, R142 `DistinctCommands`). -/
def inboundWith (cfg : Config) (s : State) : Result :=
  match fetchCommand s with
  | .error r => .refused r
  | .ok b =>
    andThen
      (match cfg.decodeCommand b with
        | some (v, c) => acceptCommand b v c s
        | none => .next s)
      fun t => .next (flagClear .inFrame t)

/-- R102: `FlagClear(OutFrame)`, nothing else. -/
def outbound (s : State) : State := flagClear .outFrame s

/-- R100, D10: the deterministic runner tests IN_FLAG first (log 7). With no step enabled (R103 idle, R106 halted)
nothing changes. -/
def blockStepBy (inb : State → Result) (s : State) : Result :=
  if inboundEnabled s then inb s
  else if outboundEnabled s then .next (outbound s)
  else .next s

/-- One move. A block move that is not enabled changes nothing (log 8). -/
def moveBy (inb : State → Result) (m : Move) (s : State) : Result :=
  match m with
  | .env e => .next (envStep e s)
  | .inbound => if inboundEnabled s then inb s else .next s
  | .outbound => if outboundEnabled s then .next (outbound s) else .next s
  | .block => blockStepBy inb s

/-- One step of the total order (R42): the next move of the agenda, or, when it is empty, a step of the block. -/
def stepBy (inb : State → Result) (s : State) : Result :=
  match s.agenda with
  | [] => blockStepBy inb s
  | m :: rest => moveBy inb m { s with agenda := rest }

/-- The step of the block configured as `cfg`. -/
def stepWith (cfg : Config) (s : State) : Result := stepBy (inboundWith cfg) s

/-! ### The order of the actions inside INBOUND (R40) -/

/-- One action of the program order of R40; decoding and assembling touch no state. -/
inductive Action where
  /-- `MemRead((sig, off), len)`. -/
  | memRead (sig : SignalId) (off len : Nat)
  /-- `OS <- v`. -/
  | setOutput (v : OutputState)
  /-- `LC <- some b`. -/
  | setLast (b : Byte)
  /-- `MemWrite((sig, off), bytes.length, bytes)`. -/
  | memWrite (sig : SignalId) (off : Nat) (bytes : List Byte)
  /-- `FlagClear(f)`. -/
  | flagClear (f : FrameId)
  deriving DecidableEq, Repr

/-- R40, R101: the actions of one INBOUND step for the command byte `b`, in program order. -/
def inboundActions (cfg : Config) (b : Byte) : List Action :=
  [.memRead .signalInput Config.inOffset Config.inLen] ++
    (match cfg.decodeCommand b with
      | some (v, c) => [.setOutput v, .setLast b, .memWrite .signalOutput Config.outOffset (encodePayload b c)]
      | none => []) ++
    [.flagClear .inFrame]

/-- What one action does. -/
def perform (a : Action) (s : State) : Result :=
  match a with
  | .memRead sig off len =>
    match frameRead sig off len s with
    | .ok _ => .next s
    | .error r => .refused r
  | .setOutput v => .next (Sys2Proof.Machine.setOutput v s)
  | .setLast b => .next (Sys2Proof.Machine.setLast b s)
  | .memWrite sig off bytes => frameWrite sig off bytes s
  | .flagClear f => .next (Sys2Proof.Machine.flagClear f s)

/-- Actions one after another. -/
def performAll : List Action → State → Result
  | [], s => .next s
  | a :: rest, s => andThen (perform a s) (performAll rest)

/-- The accesses to the signal buffers among some actions (R32). -/
def Action.isAccess : Action → Bool
  | .memRead _ _ _ => true
  | .memWrite _ _ _ => true
  | _ => false

end Sys2Proof.Machine
end

