-- ==== Sys2Proof/Machine/Step.lean ====
section
/-! DEFINITION. One step of the machine, and where a step fetches its next instruction. -/

namespace Sys2Proof.Machine

/-- One step of the total order of R42, on the source's literals. It never faults and never refuses (R117). -/
def step (s : State) : Host.Outcome State Fault Refusal := stepBy inbound s

/-- `s` with the command of the bits `w` delivered and INBOUND next: the block Running, INBUF the byte, IN_FLAG 1, and
INBOUND put before the agenda (log 18). The rest of the agenda stays. -/
def State.withFetchWord (s : State) (nbits w : Nat) : State :=
  { s with run := .running, inbuf := tableByte nbits w, inFlag := true, agenda := .inbound :: s.agenda }

end Sys2Proof.Machine
end

