-- ==== Sys2Proof/Machine/Script.lean ====
section
/-! DEFINITION. The event script of R59, the block's assembly language: its lines, the moves of each, and the run of a
script from the reset state with the claims of its `EXPECT` lines. -/

namespace Sys2Proof.Machine

/-- A line of an event script (R59). A reset line names what OUTBUF and INBUF hold afterwards (D3, D4). DESIGN CHOICE
(safe, log 28): the spec does not say whether a pseudo-line may be marked `nowait`; here the four pseudo-lines have no
mark and always wait, and their `nowait` form is written as the `cmd` line they stand for. -/
inductive ScriptLine where
  | resetOk (r : Payload) (i : Byte)
  | resetFail (r : Payload) (i : Byte)
  | cmd (b : Byte) (nowait : Bool)
  | off
  | out1
  | out2
  | out3
  | txrdy (nowait : Bool)
  | tx
  | step
  /-- "a claim about the state at this point". -/
  | expect (claim : State → Prop)

/-- R59: "the block is run until no block step is enabled". At most one INBOUND and one OUTBOUND can be pending, so two
block steps do it (log 25). -/
def settleMoves (nowait : Bool) : List Move := if nowait then [] else [.block, .block]

/-- The moves of one line; an `EXPECT` line is no step. The pseudo-lines always wait (DESIGN CHOICE, log 28). -/
def ScriptLine.moves (cfg : Config) : ScriptLine → List Move
  | .resetOk r i => [.env (.reset true r i)]
  | .resetFail r i => [.env (.reset false r i)]
  | .cmd b nowait => .env (.deliver b) :: settleMoves nowait
  | .off => .env (.deliver cfg.cmdOff) :: settleMoves false
  | .out1 => .env (.deliver cfg.cmdOut1) :: settleMoves false
  | .out2 => .env (.deliver cfg.cmdOut2) :: settleMoves false
  | .out3 => .env (.deliver cfg.cmdOut3) :: settleMoves false
  | .txrdy nowait => .env .txrdy :: settleMoves nowait
  | .tx => [.env .tx]
  | .step => [.block]
  | .expect _ => []

/-- What a line claims of the state it stands at: an `EXPECT` line its claim, any other line nothing. -/
def ScriptLine.claim : ScriptLine → State → Prop
  | .expect claim => claim
  | _ => fun _ => True

/-- The agenda of a script. -/
def scriptAgenda (cfg : Config) (lines : List ScriptLine) : List Move := lines.flatMap (ScriptLine.moves cfg)

/-- Moves one after another. -/
def runMoves (inb : State → Result) : List Move → State → Result
  | [], s => .next s
  | m :: rest, s => andThen (moveBy inb m s) (runMoves inb rest)

/-- A script run from `s`. -/
def runScript (cfg : Config) (lines : List ScriptLine) (s : State) : Result :=
  runMoves (inboundWith cfg) (scriptAgenda cfg lines) s

/-- Every `EXPECT` line of a script run from `s` holds at its point. -/
def scriptHolds (cfg : Config) : List ScriptLine → State → Prop
  | [], _ => True
  | l :: rest, s =>
    l.claim s ∧
      match runMoves (inboundWith cfg) (l.moves cfg) s with
      | .next t => scriptHolds cfg rest t
      | .fault _ => False
      | .refused _ => False

/-- R59: a script is "run from the reset state". -/
def runFromReset (cfg : Config) (lines : List ScriptLine) : Result := runScript cfg lines State.reset

/-- R59: the claims of a script run from the reset state. -/
def holdsFromReset (cfg : Config) (lines : List ScriptLine) : Prop := scriptHolds cfg lines State.reset

end Sys2Proof.Machine
end

