-- ==== Sys2Proof/Machine/Sync.lean ====
section
/-! DEFINITION. The optional synchronous realisation of R141 (the spec's own, D14; log 22): its registers, one clock
edge, and the port values. The flags and INBUF are input ports here, held by the engine. -/

namespace Sys2Proof.Machine

/-- The registers of the realisation. `inReset` is the model's own: `rst` was asserted at the last edge, which is how
an edge knows that `rst` is released at it (log 22). -/
structure SyncRegs where
  run : Run
  os : OutputState
  lc : Option Byte
  outbuf : Payload
  inReset : Bool
  deriving DecidableEq, Repr

/-- The input ports sampled at a clock edge. -/
structure SyncIn where
  rst : Bool
  initOk : Bool
  inFlag : Bool
  inByte : Byte
  outFlag : Bool
  deriving DecidableEq, Repr

/-- The output ports after a clock edge. -/
structure SyncOut where
  inClear : Bool
  outClear : Bool
  status : BitVec 16
  outActive : BitVec 3
  os : BitVec 2
  deriving DecidableEq, Repr

/-- R10, D1: Off = 0b00, Output1 = 0b01, Output2 = 0b10, Output3 = 0b11. -/
def osCode : OutputState → BitVec 2
  | .off => 0#2
  | .output1 => 1#2
  | .output2 => 2#2
  | .output3 => 3#2

/-- R33, D16: byte 0 in bits 7 to 0, byte 1 in bits 15 to 8. -/
def payloadWord (p : Payload) : BitVec 16 := p.status ++ p.echo

/-- R141: bit k-1 is OUTk_ACTIVE of R82. -/
def activeBits : OutputState → BitVec 3
  | .off => 0b000#3
  | .output1 => 0b001#3
  | .output2 => 0b010#3
  | .output3 => 0b100#3

/-- R141: an edge with `rst` asserted: "reset loads the values of R25". OUTBUF takes OUTBUF_RESET, here `r`, at the
first such edge and holds it (D3). INIT_OK is not sampled yet; DESIGN CHOICE (safe, log 22): RUN is Halted until
`rst` is released, which no port shows. -/
def syncAssert (r : Payload) (g : SyncRegs) : SyncRegs :=
  ⟨.halted, .off, none, if g.inReset then g.outbuf else r, true⟩

/-- R141: "At the clock edge where `rst` is released `init_ok` is sampled into RUN." -/
def syncRelease (initOk : Bool) (g : SyncRegs) : SyncRegs :=
  { g with run := if initOk then .running else .halted, inReset := false }

/-- R141: a later clock edge, with RUN = Running: the only edges at which the block acts. -/
def syncActs (g : SyncRegs) (i : SyncIn) : Bool := !i.rst && !g.inReset && g.run == .running

/-- INBOUND on the registers: a recognised command loads OS, LC and the status latch. -/
def syncLoad (cfg : Config) (b : Byte) (g : SyncRegs) : SyncRegs :=
  match cfg.decodeCommand b with
  | some (v, c) => { g with os := v, lc := some b, outbuf := ⟨b, c⟩ }
  | none => g

/-- R141: one clock edge; `r` is what OUTBUF_RESET is if a reset begins at it. Both block steps may happen on the same
edge. -/
def syncEdge (cfg : Config) (r : Payload) (g : SyncRegs) (i : SyncIn) : SyncRegs :=
  if i.rst then syncAssert r g
  else if g.inReset then syncRelease i.initOk g
  else if syncActs g i && i.inFlag then syncLoad cfg i.inByte g
  else g

/-- R141: the output ports in the row of the edge from `g`: the pulses of that edge, none while `rst` is asserted or at
its release, and the rest from the registers after it. -/
def syncOut (cfg : Config) (r : Payload) (g : SyncRegs) (i : SyncIn) : SyncOut where
  inClear := syncActs g i && i.inFlag
  outClear := syncActs g i && i.outFlag
  status := payloadWord (syncEdge cfg r g i).outbuf
  outActive := activeBits (syncEdge cfg r g i).os
  os := osCode (syncEdge cfg r g i).os

end Sys2Proof.Machine
end

