-- ==== Sys2Proof/Safety.lean ====
section
/-! DEFINITION. The terms claims are stated in: the named premises of R142, the step relation of 43_dispatch.md section
6 with every choice open, its finite and its weakly fair infinite runs (R113), the states a run reaches, and the
consistency of R23. -/

namespace Sys2Proof.Machine

/-- R142 `Running`. -/
abbrev Running (s : State) : Prop := s.run = .running

/-- R142 `DefaultConfig`: the eight literals have the values of R4. The machine (`exec`, `step`) has this premise built
in. -/
abbrev DefaultConfig (cfg : Config) : Prop := cfg = Config.source

/-- R142 `Quiescent`: both flags 0. -/
abbrev Quiescent (s : State) : Prop := s.inFlag = false ∧ s.outFlag = false

/-- R142 `ResetState`: the state of R25, for some OUTBUF_RESET and some INBUF. -/
abbrev ResetState (s : State) : Prop :=
  s.os = .off ∧ s.lc = none ∧ s.outbuf = s.outbufReset ∧ Quiescent s

/-- The machine of any configuration, in the host's terms. -/
def coreWith (cfg : Config) : Host.Core where
  State := State
  Fault := Fault
  Refusal := Refusal
  step := stepWith cfg
  reset := State.reset

/-- `n` steps of that machine. -/
def runWith (cfg : Config) (n : Nat) (s : State) : Result := Host.Core.run (coreWith cfg) n s

/-- No reset is planned in the agenda. -/
def NoReset (moves : List Move) : Prop := ∀ k r i, Move.env (.reset k r i) ∉ moves

/-- 43_dispatch.md section 6: the step relation. The agenda is no part of it: a step leaves it as it is, and both
orders of two pending events are steps (R105, U12). -/
inductive SpecStep (cfg : Config) : State → Move → State → Prop
  /-- R101, a recognised command. -/
  | inboundAccept (s : State) (v : OutputState) (c : Byte) (hr : s.run = .running) (hf : s.inFlag = true)
      (hd : cfg.decodeCommand s.inbuf = some (v, c)) :
      SpecStep cfg s .inbound { s with os := v, lc := some s.inbuf, outbuf := ⟨s.inbuf, c⟩, inFlag := false }
  /-- R101, an unrecognised command. -/
  | inboundIgnore (s : State) (hr : s.run = .running) (hf : s.inFlag = true)
      (hd : cfg.decodeCommand s.inbuf = none) :
      SpecStep cfg s .inbound { s with inFlag := false }
  /-- R102. -/
  | outbound (s : State) (hr : s.run = .running) (hf : s.outFlag = true) :
      SpecStep cfg s .outbound { s with outFlag := false }
  /-- R107. -/
  | deliver (s : State) (b : Byte) : SpecStep cfg s (.env (.deliver b)) { s with inbuf := b, inFlag := true }
  /-- R108. -/
  | txrdy (s : State) : SpecStep cfg s (.env .txrdy) { s with outFlag := true }
  /-- R109. -/
  | tx (s : State) : SpecStep cfg s (.env .tx) { s with txReads := s.outbuf :: s.txReads }
  /-- R130. -/
  | reset (s : State) (k : Bool) (r : Payload) (i : Byte) :
      SpecStep cfg s (.env (.reset k r i))
        { run := if k then .running else .halted, os := .off, lc := none, outbuf := r, inbuf := i, inFlag := false,
          outFlag := false, outbufReset := r, agenda := s.agenda, txReads := s.txReads }

/-- A finite sequence of steps. -/
inductive SpecRun (cfg : Config) : State → List Move → State → Prop
  | nil (s : State) : SpecRun cfg s [] s
  | cons {s t u : State} {m : Move} {ms : List Move} (h : SpecStep cfg s m t) (rest : SpecRun cfg t ms u) :
      SpecRun cfg s (m :: ms) u

/-- An infinite run under weak fairness of the block and nothing more (R113). `none` is a moment without a step. -/
structure FairRun (cfg : Config) (states : Nat → State) (acts : Nat → Option Move) : Prop where
  follows : ∀ n m, acts n = some m → SpecStep cfg (states n) m (states (n + 1))
  idles : ∀ n, acts n = none → states (n + 1) = states n
  fairIn : ∀ n, (∀ k, n ≤ k → inboundEnabled (states k) = true) → ∃ k, n ≤ k ∧ acts k = some .inbound
  fairOut : ∀ n, (∀ k, n ≤ k → outboundEnabled (states k) = true) → ∃ k, n ≤ k ∧ acts k = some .outbound

/-- R142: a state of some run; a run starts with a reset step, in any state and before any agenda. -/
inductive Reachable (cfg : Config) : State → Prop
  | reset (s : State) (k : Bool) (r : Payload) (i : Byte) : Reachable cfg (resetTo k r i s)
  | step {s t : State} (hs : Reachable cfg s) (h : stepWith cfg s = .next t) : Reachable cfg t

/-- R23: with LC = `some b`, OUTBUF is `[b, STATUS(OS)]` and `decode(b) = some (OS, STATUS(OS))`; with LC = `none`, OS is
Off and OUTBUF is OUTBUF_RESET. -/
def Consistent (cfg : Config) (s : State) : Prop :=
  match s.lc with
  | none => s.os = .off ∧ s.outbuf = s.outbufReset
  | some b => s.outbuf = ⟨b, cfg.status s.os⟩ ∧ cfg.decodeCommand b = some (s.os, cfg.status s.os)

/-- R106: in Halted, LC stays `none` (so by R23 OS stays Off and OUTBUF stays OUTBUF_RESET). -/
def HaltedUntouched (s : State) : Prop := s.run = .halted → s.lc = none

/-- The invariant of the block: R23 and R106. -/
def Inv (cfg : Config) (s : State) : Prop := Consistent cfg s ∧ HaltedUntouched s

end Sys2Proof.Machine
end

