-- ==== Sys2Proof/Certificates/Slice0/Obligations.lean ====
section
/-! DEFINITION. The statements for the provers, grouped as the files of spec/ are. Statements over `stepWith cfg` hold in
every configuration they name; `MachineStepIsThePseudocodeStep` carries them to `step`. -/

open Sys2Proof Sys2Proof.Machine

/-! ### Encodings (30_encoding.md) -/

/-- R53, R54: the bytes of the table, written out bit by bit, and two bytes that no row matches. -/
def Obligations.DecoderReadsTheTableBytes : Prop :=
  decode 0b00000000#8 = .off ∧ decode 0b00010001#8 = .out1 ∧ decode 0b00100010#8 = .out2 ∧
    decode 0b00110011#8 = .out3 ∧ decode 0b10011001#8 = .ign 0b10011001#8 ∧
    decode 0b10110011#8 = .ign 0b10110011#8

/-- R54, R55: with four distinct commands, decoding the encoding of a well-formed command gives it back, for every byte
IGN may carry. -/
def Obligations.DecodeOfEncodeGivesTheCommand : Prop :=
  ∀ cfg : Config, cfg.DistinctCommands → ∀ i : Instr, i.wellFormed cfg = true →
    cfg.decodeBytes (cfg.encode i) = .ok i

/-- R54, R56: whatever the decoder accepts is one byte, decodes to a well-formed command, and encodes back to itself. -/
def Obligations.EncodeOfDecodeGivesTheBytes : Prop :=
  ∀ (cfg : Config) (bytes : List Byte) (i : Instr), cfg.decodeBytes bytes = .ok i →
    i.wellFormed cfg = true ∧ cfg.encode i = bytes ∧ bytes.length = 1

/-- R53: "A decoder tests the four rows in any order, since the four match values are distinct". -/
def Obligations.RowOrderIsImmaterial : Prop :=
  ∀ cfg : Config, cfg.DistinctCommands → ∀ rows : List OpcodeRow, rows.Perm cfg.opcodeRows →
    ∀ b : Byte, lookupRows b rows = cfg.decodeInstr b

/-- R53, R54, R65: the table decoder and the mapping of R65 agree on every byte of every configuration. -/
def Obligations.TableDecoderAgreesWithTheMapping : Prop :=
  ∀ (cfg : Config) (b : Byte), (cfg.decodeInstr b).transition cfg = cfg.decodeCommand b ∧
    (cfg.decodeCommand b = none ↔ cfg.decodeInstr b = .ign b)

/-- R55: with four distinct commands, 252 byte values are ignored. -/
def Obligations.TwoHundredFiftyTwoBytesAreIgnored : Prop :=
  ∀ cfg : Config, cfg.DistinctCommands →
    (List.range 256).countP (fun n => (cfg.decodeCommand (BitVec.ofNat 8 n)).isNone) = 252

/-- R65: the five cases of `decode`, and the derived clause that the code is the status code of the state. -/
def Obligations.DecodeMapsTheFourCommands : Prop :=
  ∀ cfg : Config, cfg.DistinctCommands →
    cfg.decodeCommand cfg.cmdOff = some (.off, cfg.stOff) ∧
    cfg.decodeCommand cfg.cmdOut1 = some (.output1, cfg.stOut1) ∧
    cfg.decodeCommand cfg.cmdOut2 = some (.output2, cfg.stOut2) ∧
    cfg.decodeCommand cfg.cmdOut3 = some (.output3, cfg.stOut3) ∧
    (∀ b, cfg.recognised b = false → cfg.decodeCommand b = none) ∧
    ∀ b v c, cfg.decodeCommand b = some (v, c) → c = cfg.status v

/-! ### The commands (40_commands.md) -/

/-- R66: OFF from every state, a Halted one among them (log 27: exec looks at neither RUN nor IN_FLAG). The clause on
the output lines is the spec's decision D6. The clause on step leaves OUT_FLAG free, so with both flags set and an
empty agenda it rests on INBOUND being taken first (log 7, decision D10). -/
def Obligations.OffSetsOffAndReports : Prop :=
  decode 0x00#8 = .off ∧
  (∀ s : State, exec .off s = .next { s with os := .off, lc := some 0x00#8, outbuf := ⟨0x00#8, 0xDD#8⟩ }) ∧
  (∀ s t : State, exec .off s = .next t → ∀ k, outActive k t = false) ∧
  ∀ s : State, Running s → s.inFlag = true → s.inbuf = 0x00#8 → s.agenda = [] →
    step s = .next { s with os := .off, lc := some 0x00#8, outbuf := ⟨0x00#8, 0xDD#8⟩, inFlag := false }

/-- R67: OUT1 from every state, a Halted one among them (log 27: exec looks at neither RUN nor IN_FLAG). The clause
on step (R101, R104) leaves OUT_FLAG free, so with both flags set and an empty agenda it rests on INBOUND being taken
first (log 7, decision D10). -/
def Obligations.Out1SetsOutput1AndReports : Prop :=
  decode 0x11#8 = .out1 ∧
  (∀ s : State, exec .out1 s = .next { s with os := .output1, lc := some 0x11#8, outbuf := ⟨0x11#8, 0xAA#8⟩ }) ∧
  (∀ s t : State, exec .out1 s = .next t →
    outActive .line1 t = true ∧ outActive .line2 t = false ∧ outActive .line3 t = false) ∧
  ∀ s : State, Running s → s.inFlag = true → s.inbuf = 0x11#8 → s.agenda = [] →
    step s = .next { s with os := .output1, lc := some 0x11#8, outbuf := ⟨0x11#8, 0xAA#8⟩, inFlag := false }

/-- R68: OUT2 from every state, a Halted one among them (log 27: exec looks at neither RUN nor IN_FLAG). The clause
on step (R101, R104) leaves OUT_FLAG free, so with both flags set and an empty agenda it rests on INBOUND being taken
first (log 7, decision D10). -/
def Obligations.Out2SetsOutput2AndReports : Prop :=
  decode 0x22#8 = .out2 ∧
  (∀ s : State, exec .out2 s = .next { s with os := .output2, lc := some 0x22#8, outbuf := ⟨0x22#8, 0xBB#8⟩ }) ∧
  (∀ s t : State, exec .out2 s = .next t →
    outActive .line1 t = false ∧ outActive .line2 t = true ∧ outActive .line3 t = false) ∧
  ∀ s : State, Running s → s.inFlag = true → s.inbuf = 0x22#8 → s.agenda = [] →
    step s = .next { s with os := .output2, lc := some 0x22#8, outbuf := ⟨0x22#8, 0xBB#8⟩, inFlag := false }

/-- R69: OUT3 from every state, a Halted one among them (log 27: exec looks at neither RUN nor IN_FLAG). The clause
on step (R101, R104) leaves OUT_FLAG free, so with both flags set and an empty agenda it rests on INBOUND being taken
first (log 7, decision D10). -/
def Obligations.Out3SetsOutput3AndReports : Prop :=
  decode 0x33#8 = .out3 ∧
  (∀ s : State, exec .out3 s = .next { s with os := .output3, lc := some 0x33#8, outbuf := ⟨0x33#8, 0xCC#8⟩ }) ∧
  (∀ s t : State, exec .out3 s = .next t →
    outActive .line1 t = false ∧ outActive .line2 t = false ∧ outActive .line3 t = true) ∧
  ∀ s : State, Running s → s.inFlag = true → s.inbuf = 0x33#8 → s.agenda = [] →
    step s = .next { s with os := .output3, lc := some 0x33#8, outbuf := ⟨0x33#8, 0xCC#8⟩, inFlag := false }

/-- R70: IGN, for every byte not in {0x00, 0x11, 0x22, 0x33}: 252 values, no change, no MemWrite, the event consumed.
exec of IGN with a recognised byte, which no step runs, is the model's choice (log 20), as is exec in Halted (log 27).
The clause on step leaves OUT_FLAG free, so with both flags set and an empty agenda it rests on INBOUND being taken
first (log 7, decision D10). -/
def Obligations.IgnChangesNothingAndIsConsumed : Prop :=
  (∀ b : Byte, (b ≠ 0x00#8 ∧ b ≠ 0x11#8 ∧ b ≠ 0x22#8 ∧ b ≠ 0x33#8) ↔ decode b = .ign b) ∧
  (List.range 256).countP (fun n => decode (BitVec.ofNat 8 n) = .ign (BitVec.ofNat 8 n)) = 252 ∧
  (∀ (b : Byte) (s : State), exec (.ign b) s = .next s) ∧
  (∀ b : Byte, decode b = .ign b → ∀ sig off bytes,
    Action.memWrite sig off bytes ∉ inboundActions Config.source b) ∧
  ∀ s : State, Running s → s.inFlag = true → decode s.inbuf = .ign s.inbuf → s.agenda = [] →
    step s = .next { s with inFlag := false }

/-- R66 to R69: what a recognised command leaves unchanged: every register but OS and LC, every flag, and every byte
of both signals outside the payload bytes (SignalOutput, OUT_OFFSET) up to OUT_LEN. In a state where R101 has no step,
exec is the model's choice (log 27). -/
def Obligations.RecognisedCommandFrame : Prop :=
  ∀ i ∈ [Instr.off, .out1, .out2, .out3], ∀ s t : State, exec i s = .next t →
    t.run = s.run ∧ t.inbuf = s.inbuf ∧ t.inFlag = s.inFlag ∧ t.outFlag = s.outFlag ∧
    t.outbufReset = s.outbufReset ∧ t.agenda = s.agenda ∧ t.txReads = s.txReads ∧
    ∀ sig off, ¬(sig = .signalOutput ∧ Config.outOffset ≤ off ∧ off < Config.outOffset + Config.outLen) →
      readByte sig off t = readByte sig off s

/-- R70: what IGN leaves unchanged: everything, every byte of memory among it. For IGN with a recognised byte, which no
step runs, this is the model's choice (log 20), and so is exec in a state where R101 has no step (log 27). -/
def Obligations.IgnFrame : Prop :=
  ∀ (b : Byte) (s t : State), exec (.ign b) s = .next t →
    t = s ∧ ∀ sig off, readByte sig off t = readByte sig off s

/-- R71: a command twice in a row is the command once, as commands and as two handled deliveries of one byte. R71 speaks
of the recognised commands handled by a Running block; that exec answers a next state in Halted too is the model's
choice (log 27), and so is IGN with a recognised byte (log 20). -/
def Obligations.CommandTwiceIsCommandOnce : Prop :=
  (∀ (i : Instr) (s : State), ∃ t, exec i s = .next t ∧ exec i t = .next t) ∧
  ∀ (cfg : Config) (s : State) (b : Byte) (rest : List Move), Running s →
    runWith cfg 4 { s with agenda := .env (.deliver b) :: .inbound :: .env (.deliver b) :: .inbound :: rest } =
      runWith cfg 2 { s with agenda := .env (.deliver b) :: .inbound :: rest }

/-- R72: for a recognised byte the values after the step are functions of the byte alone, for an unrecognised byte they
are those before it; every output state is one command away from every state. R72 speaks of INBOUND steps, which only a
Running block with IN_FLAG 1 takes (R101); that `inbound` does the same in every other state is the model's choice (log
27). -/
def Obligations.OutcomeDependsOnTheByteAlone : Prop :=
  (∀ s₁ s₂ : State, s₁.inbuf = s₂.inbuf → Config.source.recognised s₁.inbuf = true →
    ∃ t₁ t₂, inbound s₁ = .next t₁ ∧ inbound s₂ = .next t₂ ∧
      t₁.os = t₂.os ∧ t₁.lc = t₂.lc ∧ t₁.outbuf = t₂.outbuf) ∧
  (∀ s : State, Config.source.recognised s.inbuf = false →
    ∃ t, inbound s = .next t ∧ t.os = s.os ∧ t.lc = s.lc ∧ t.outbuf = s.outbuf) ∧
  ∀ (s : State) (v : OutputState), ∃ b t, inbound { s with inbuf := b } = .next t ∧ t.os = v

/-! ### The output state and its lines (41_output_state.md) -/

/-- R80, R81: `set` writes OS alone, `current` reads it, and the lines follow. The lines clause rests on the spec's
decision D6. -/
def Obligations.SetWritesOutputStateAlone : Prop :=
  ∀ (v : OutputState) (s : State), setOutput v s = { s with os := v } ∧ current (setOutput v s) = v ∧
    setOutput (current s) s = s ∧ ∀ k, outActive k (setOutput v s) = (v == k.variant)

/-- R82, R83 (decision D6): the table of the output lines; at most one is active, and one is unless OS is Off. -/
def Obligations.OutputLinesFollowOutputState : Prop :=
  ∀ s : State,
    (s.os = .off → ∀ k, outActive k s = false) ∧
    (s.os = .output1 → outActive .line1 s = true ∧ outActive .line2 s = false ∧ outActive .line3 s = false) ∧
    (s.os = .output2 → outActive .line1 s = false ∧ outActive .line2 s = true ∧ outActive .line3 s = false) ∧
    (s.os = .output3 → outActive .line1 s = false ∧ outActive .line2 s = false ∧ outActive .line3 s = true) ∧
    (∀ j k, outActive j s = true → outActive k s = true → j = k) ∧
    (s.os ≠ .off → ∃ k, outActive k s = true)

/-! ### The status encoder (42_status_encoder.md) -/

/-- R90: the status map; the bijection is the spec's own inference. -/
def Obligations.StatusMapIsInjective : Prop :=
  Config.source.status .off = 0xDD#8 ∧ Config.source.status .output1 = 0xAA#8 ∧
    Config.source.status .output2 = 0xBB#8 ∧ Config.source.status .output3 = 0xCC#8 ∧
    ∀ u v, Config.source.status u = Config.source.status v → u = v

/-- R91: `encode(l, c) = [l, c]`, and the payload written reads back as these two bytes in this order. -/
def Obligations.PayloadIsEchoThenStatus : Prop :=
  ∀ (l c : Byte) (s : State), encodePayload l c = [l, c] ∧
    ∃ t, frameWrite .signalOutput Config.outOffset (encodePayload l c) s = .next t ∧
      readByte .signalOutput 0 t = some l ∧ readByte .signalOutput 1 t = some c ∧
      frameRead .signalOutput Config.outOffset Config.outLen t = .ok (encodePayload l c)

/-- R57 (the spec's own inference), R94: a step either keeps the payload, or is a reset that draws it, or writes one of
the four rows `[command, status]`. -/
def Obligations.OnlyTableRowsAreEverWritten : Prop :=
  ∀ (cfg : Config) (s t : State), stepWith cfg s = .next t →
    t.outbuf = s.outbuf ∨
    (∃ k r i, s.agenda.head? = some (.env (.reset k r i)) ∧ t.outbuf = r) ∨
    t.outbuf ∈ [(⟨cfg.cmdOff, cfg.stOff⟩ : Payload), ⟨cfg.cmdOut1, cfg.stOut1⟩, ⟨cfg.cmdOut2, cfg.stOut2⟩,
      ⟨cfg.cmdOut3, cfg.stOut3⟩]

/-! ### Memory (20_memory.md) -/

/-- R31: a read gives the bytes at its offsets in ascending order; a write stores `v[i]` at `off + i`, is read back, and
leaves every other byte and every register alone. Of these requests the block and the engine make only those of R32 and
R109; that the others in range have R31's meaning too, where U5 gives none, is the model's reading (log 12). -/
def Obligations.SignalReadsAndWrites : Prop :=
  (∀ (sig : SignalId) (off n : Nat) (s : State), 0 < n → off + n ≤ sig.size →
    ∃ bytes, frameRead sig off n s = .ok bytes ∧ bytes.length = n ∧
      ∀ i < n, bytes[i]? = readByte sig (off + i) s) ∧
  ∀ (sig : SignalId) (off : Nat) (v : List Byte) (s : State), v ≠ [] →
    off + v.length ≤ sig.size →
    ∃ t, frameWrite sig off v s = .next t ∧ frameRead sig off v.length t = .ok v ∧
      (∀ i < v.length, readByte sig (off + i) t = v[i]?) ∧
      (∀ sig' k, (sig' ≠ sig ∨ k < off ∨ off + v.length ≤ k) → readByte sig' k t = readByte sig' k s) ∧
      { t with inbuf := s.inbuf, outbuf := s.outbuf } = s

/-- R34, U5: a request is refused exactly when it has no byte, at whatever offset, or a byte outside the signal. That the
other requests are answered, those beyond R32's and R109's among them, is the model's reading (log 12). -/
def Obligations.AccessOutsideASignalIsRefused : Prop :=
  ∀ (sig : SignalId) (off : Nat) (s : State),
    (∀ n, (n = 0 ∨ sig.size < off + n) ↔ frameRead sig off n s = .error .signalAccess) ∧
    ∀ v : List Byte, (v = [] ∨ sig.size < off + v.length) ↔ frameWrite sig off v s = .refused .signalAccess

/-- R46: the two flag calls. -/
def Obligations.FlagCalls : Prop :=
  ∀ s : State, flagTest .inFrame s = s.inFlag ∧ flagTest .outFrame s = s.outFlag ∧
    flagClear .inFrame s = { s with inFlag := false } ∧ flagClear .outFrame s = { s with outFlag := false } ∧
    ∀ f, (flagTest f s = false → flagClear f s = s)

/-- R40: the actions of an INBOUND step in program order, the clear last and once, are together the INBOUND step; the
accesses to memory among them are those of R32. What both sides do in a state where R101 has no INBOUND step is the
model's choice (log 27). -/
def Obligations.InboundRunsItsActionsInOrder : Prop :=
  (∀ (cfg : Config) (s : State), performAll (inboundActions cfg s.inbuf) s = inboundWith cfg s) ∧
  (∀ (cfg : Config) (b c : Byte) (v : OutputState), cfg.decodeCommand b = some (v, c) →
    inboundActions cfg b =
      [.memRead .signalInput 0 1, .setOutput v, .setLast b, .memWrite .signalOutput 0 [b, c],
        .flagClear .inFrame]) ∧
  (∀ (cfg : Config) (b : Byte), cfg.decodeCommand b = none →
    inboundActions cfg b = [.memRead .signalInput 0 1, .flagClear .inFrame]) ∧
  ∀ (cfg : Config) (b : Byte), ∃ before, inboundActions cfg b = before ++ [.flagClear .inFrame] ∧
    ∀ f, Action.flagClear f ∉ before

/-! ### The dispatcher's steps (43_dispatch.md) -/

/-- A step runs the decoded instruction and clears IN_FLAG after it, whether INBOUND is the move taken, the block's own
choice, or the command just placed. The clauses on the block's own choice and on the empty agenda leave OUT_FLAG free and
so rest on INBOUND being taken first (log 7, decision D10); the last clause is about the model's withFetchWord (log 18,
DESIGN CHOICE). -/
def Obligations.StepRunsTheDecodedCommand : Prop :=
  (∀ (s : State) (i : Instr) (rest : List Move), inboundEnabled s = true →
    Config.source.decodeBytes [s.inbuf] = .ok i →
    step { s with agenda := .inbound :: rest } =
        andThen (exec i { s with agenda := rest }) (fun t => .next (flagClear .inFrame t)) ∧
      step { s with agenda := .block :: rest } =
        andThen (exec i { s with agenda := rest }) (fun t => .next (flagClear .inFrame t)) ∧
      step { s with agenda := [] } =
        andThen (exec i { s with agenda := [] }) (fun t => .next (flagClear .inFrame t))) ∧
  ∀ (s : State) (w : Nat) (i : Instr), decodeTableWord 8 w = some i →
    step (s.withFetchWord 8 w) =
      andThen (exec i { s with run := .running, inbuf := BitVec.ofNat 8 (w % 256), inFlag := true })
        (fun t => .next (flagClear .inFrame t))

/-- R92, R101: the machine, which decodes to an instruction and runs `exec`, is the pseudocode of R101 on the source's
literals. -/
def Obligations.MachineStepIsThePseudocodeStep : Prop :=
  ∀ s : State, step s = stepWith Config.source s

/-- R101: INBOUND, from every state it is enabled in, in every configuration. -/
def Obligations.InboundStepEffect : Prop :=
  ∀ (cfg : Config) (s : State) (rest : List Move), Running s → s.inFlag = true →
    stepWith cfg { s with agenda := .inbound :: rest } =
      .next (match cfg.decodeCommand s.inbuf with
        | some (v, c) =>
          { s with os := v, lc := some s.inbuf, outbuf := ⟨s.inbuf, c⟩, inFlag := false, agenda := rest }
        | none => { s with inFlag := false, agenda := rest })

/-- R102: OUTBOUND clears OUT_FLAG and nothing else, before any command too (decision D20). -/
def Obligations.OutboundOnlyAcknowledges : Prop :=
  ∀ (s : State) (rest : List Move), Running s → s.outFlag = true →
    step { s with agenda := .outbound :: rest } = .next { s with outFlag := false, agenda := rest } ∧
    (s.inFlag = false → step { s with agenda := [] } = .next { s with outFlag := false, agenda := [] })

/-- R100, R103, R106: which block steps the relation enables, and that a block move that is not enabled changes nothing
(the model's choice, log 8). -/
def Obligations.EnabledBlockSteps : Prop :=
  (∀ (cfg : Config) (s : State), (∃ t, SpecStep cfg s .inbound t) ↔ s.run = .running ∧ s.inFlag = true) ∧
  (∀ (cfg : Config) (s : State), (∃ t, SpecStep cfg s .outbound t) ↔ s.run = .running ∧ s.outFlag = true) ∧
  (∀ (cfg : Config) (s : State) (rest : List Move) (m : Move), m ∈ [Move.inbound, .outbound, .block] →
    (s.run = .halted ∨ Quiescent s) →
    stepWith cfg { s with agenda := m :: rest } = .next { s with agenda := rest }) ∧
  ∀ (cfg : Config) (s : State), (s.run = .halted ∨ Quiescent s) → s.agenda = [] → stepWith cfg s = .next s

/-- R105 (the spec's own inference, where both flags are set in Running): INBOUND and OUTBOUND reach the same state in
either order; a TX between them reads the new payload or the old one. In a state where one of the moves is not enabled
(Halted, or a flag 0) the first clause rests on the model's choice that such a move changes nothing (log 8). -/
def Obligations.InboundAndOutboundCommute : Prop :=
  (∀ (cfg : Config) (s : State) (rest : List Move), ∃ t,
    runWith cfg 2 { s with agenda := .inbound :: .outbound :: rest } = .next t ∧
      runWith cfg 2 { s with agenda := .outbound :: .inbound :: rest } = .next t) ∧
  ∀ (cfg : Config) (s : State) (v : OutputState) (c : Byte), Running s → s.inFlag = true → s.outFlag = true →
    cfg.decodeCommand s.inbuf = some (v, c) →
    ∃ t₁ t₂, runWith cfg 3 { s with agenda := [.inbound, .env .tx, .outbound] } = .next t₁ ∧
      runWith cfg 3 { s with agenda := [.outbound, .env .tx, .inbound] } = .next t₂ ∧
      t₁.txReads = ⟨s.inbuf, c⟩ :: s.txReads ∧ t₂.txReads = s.outbuf :: s.txReads

/-- R106: in Halted, until a reset, nothing but pending flags and INBUF changes, and a flag once set stays set. -/
def Obligations.HaltedBlockNeverActs : Prop :=
  ∀ (cfg : Config) (n : Nat) (s t : State), s.run = .halted → NoReset s.agenda → runWith cfg n s = .next t →
    t.run = .halted ∧ t.os = s.os ∧ t.lc = s.lc ∧ t.outbuf = s.outbuf ∧ t.outbufReset = s.outbufReset ∧
    (s.inFlag = true → t.inFlag = true) ∧ (s.outFlag = true → t.outFlag = true)

/-- R107: DELIVER in any state (decision D22 leaves the byte and the moment free). -/
def Obligations.DeliverStepEffect : Prop :=
  ∀ (cfg : Config) (s : State) (b : Byte) (rest : List Move),
    stepWith cfg { s with agenda := .env (.deliver b) :: rest } =
      .next { s with inbuf := b, inFlag := true, agenda := rest }

/-- R108: TXRDY in any state. -/
def Obligations.TxReadyStepEffect : Prop :=
  ∀ (cfg : Config) (s : State) (rest : List Move),
    stepWith cfg { s with agenda := .env .txrdy :: rest } = .next { s with outFlag := true, agenda := rest }

/-- R109: TX writes no state of the block, in any state; while Running it observes both bytes of OUTBUF (in a Halted
run nothing is claimed of the observation, D19). -/
def Obligations.TransmitObservesThePayload : Prop :=
  ∀ (cfg : Config) (s : State) (rest : List Move), ∃ t,
    stepWith cfg { s with agenda := .env .tx :: rest } = .next t ∧
      { t with txReads := s.txReads, agenda := s.agenda } = s ∧ t.agenda = rest ∧
      (Running s → t.txReads = s.outbuf :: s.txReads)

/-- R110: a step of the environment other than reset writes neither OS, LC, OUTBUF nor RUN, and clears no flag. -/
def Obligations.EnvironmentCannotTouchTheBlock : Prop :=
  ∀ (cfg : Config) (s : State) (e : EnvStep) (rest : List Move), (∀ k r i, e ≠ .reset k r i) →
    ∃ t, stepWith cfg { s with agenda := .env e :: rest } = .next t ∧
      t.os = s.os ∧ t.lc = s.lc ∧ t.outbuf = s.outbuf ∧ t.run = s.run ∧
      (s.inFlag = true → t.inFlag = true) ∧ (s.outFlag = true → t.outFlag = true)

/-- R111 (decision D11): of two deliveries before one INBOUND the first leaves no trace, and two TXRDY are acknowledged
once. That a second INBOUND move, which R104 leaves not enabled, changes nothing is the model's choice (log 8). -/
def Obligations.OverrunLosesTheFirstCommand : Prop :=
  ∀ (cfg : Config) (s : State) (rest : List Move), Running s →
    (∀ b₁ b₂ : Byte,
      runWith cfg 3 { s with agenda := .env (.deliver b₁) :: .env (.deliver b₂) :: .inbound :: rest } =
        runWith cfg 2 { s with agenda := .env (.deliver b₂) :: .inbound :: rest } ∧
      runWith cfg 4 { s with agenda := .env (.deliver b₁) :: .env (.deliver b₂) :: .inbound :: .inbound :: rest } =
        runWith cfg 2 { s with agenda := .env (.deliver b₂) :: .inbound :: rest }) ∧
    runWith cfg 3 { s with agenda := .env .txrdy :: .env .txrdy :: .outbound :: rest } =
      runWith cfg 2 { s with agenda := .env .txrdy :: .outbound :: rest }

/-! ### Reset (70_reset_and_hazards.md) -/

/-- R25, R130: what a reset leaves, from any state, for any OUTBUF_RESET and any INBUF. The flags' values are the
spec's decision D5, the lines' its decision D6; that the agenda and the TX record stay is the model's choice (log 17). -/
def Obligations.ResetStepEffect : Prop :=
  ∀ (cfg : Config) (s : State) (k : Bool) (r : Payload) (i : Byte) (rest : List Move), ∃ t,
    stepWith cfg { s with agenda := .env (.reset k r i) :: rest } = .next t ∧
      t.os = .off ∧ t.lc = none ∧ t.outbuf = r ∧ t.outbufReset = r ∧ t.inbuf = i ∧ t.inFlag = false ∧
      t.outFlag = false ∧ (t.run = .running ↔ k = true) ∧ (∀ l, outActive l t = false) ∧
      t.agenda = rest ∧ t.txReads = s.txReads

/-- R25 at the machine's own reset state: OS Off, LC none, no pending flag; Running is the model's choice (log 5). No
clause says what OUTBUF or INBUF hold (logs 2 and 3). -/
def Obligations.ResetStateIsConsistent : Prop :=
  ResetState State.reset ∧ Running State.reset ∧ Inv Config.source State.reset ∧
    ∀ (cfg : Config) (s : State) (k : Bool) (r : Payload) (i : Byte),
      ResetState (resetTo k r i s) ∧ Inv cfg (resetTo k r i s)

/-! ### Invariants and whole-machine rules -/

/-- R23, R106 (the spec's own inference): every step keeps the consistency of OS, LC and OUTBUF, from every consistent
state, with any agenda, in every configuration. -/
def Obligations.StepKeepsConsistency : Prop :=
  ∀ (cfg : Config) (s t : State), Inv cfg s → stepWith cfg s = .next t → Inv cfg t

/-- R12, R23, R95, R106 (the spec's own inferences): in every reachable state a last command is a recognised byte and
the payload is that byte with the status code of OS; without one OS is Off and the payload is OUTBUF_RESET; a Halted
state is of the second kind. -/
def Obligations.ReachableStatesAreConsistent : Prop :=
  ∀ (cfg : Config) (s : State), Reachable cfg s →
    (∀ b, s.lc = some b → cfg.recognised b = true ∧ s.outbuf = ⟨b, cfg.status s.os⟩ ∧
      cfg.decodeCommand b = some (s.os, cfg.status s.os)) ∧
    (s.lc = none → s.os = .off ∧ s.outbuf = s.outbufReset) ∧
    (s.run = .halted → s.lc = none)

/-- R22: an INBOUND step writes OS, LC and both bytes of OUTBUF together on a recognised command and none of them on
an unrecognised one; no other step of any agent but a reset writes any of them. That `inboundWith` does so in a Halted
state and with IN_FLAG 0 too, where R101 has no INBOUND step, is the model's choice (log 27). -/
def Obligations.NoPartialUpdate : Prop :=
  (∀ (cfg : Config) (s : State), ∃ t, inboundWith cfg s = .next t ∧
    (∀ v c, cfg.decodeCommand s.inbuf = some (v, c) →
      t.os = v ∧ t.lc = some s.inbuf ∧ t.outbuf = ⟨s.inbuf, c⟩) ∧
    (cfg.decodeCommand s.inbuf = none → t.os = s.os ∧ t.lc = s.lc ∧ t.outbuf = s.outbuf)) ∧
  ∀ (cfg : Config) (s t : State), stepWith cfg s = .next t →
    (t.os = s.os ∧ t.lc = s.lc ∧ t.outbuf = s.outbuf) ∨
    (Running s ∧ s.inFlag = true ∧ t.inFlag = false ∧ ∃ v c, cfg.decodeCommand s.inbuf = some (v, c) ∧
      t.os = v ∧ t.lc = some s.inbuf ∧ t.outbuf = ⟨s.inbuf, c⟩) ∨
    ∃ k r i, s.agenda.head? = some (.env (.reset k r i)) ∧ t.os = .off ∧ t.lc = none ∧ t.outbuf = r

/-- R16, R104, R120: a flag is cleared only by its own block step in Running or by a reset, and set only by its own
step of the environment. That the block's own choice clears OUT_FLAG only with IN_FLAG 0 is the order of decision D10
(log 7). -/
def Obligations.FlagsChangeOnlyByTheirOwnSteps : Prop :=
  ∀ (cfg : Config) (s t : State), stepWith cfg s = .next t →
    (s.inFlag = true → t.inFlag = false →
      (∃ k r i, s.agenda.head? = some (.env (.reset k r i))) ∨
      (Running s ∧ (s.agenda = [] ∨ s.agenda.head? = some .inbound ∨ s.agenda.head? = some .block))) ∧
    (s.outFlag = true → t.outFlag = false →
      (∃ k r i, s.agenda.head? = some (.env (.reset k r i))) ∨
      (Running s ∧ (s.agenda.head? = some .outbound ∨
        (s.inFlag = false ∧ (s.agenda = [] ∨ s.agenda.head? = some .block))))) ∧
    (s.inFlag = false → t.inFlag = true → ∃ b, s.agenda.head? = some (.env (.deliver b)) ∧ t.inbuf = b) ∧
    (s.outFlag = false → t.outFlag = true → s.agenda.head? = some (.env .txrdy))

/-- R17, R15, R107: only a reset changes RUN, and only a delivery or a reset changes INBUF. -/
def Obligations.RunAndInbufAreTheEnvironments : Prop :=
  ∀ (cfg : Config) (s t : State), stepWith cfg s = .next t →
    (t.run ≠ s.run → ∃ k r i, s.agenda.head? = some (.env (.reset k r i))) ∧
    (t.inbuf ≠ s.inbuf → (∃ b, s.agenda.head? = some (.env (.deliver b)) ∧ t.inbuf = b) ∨
      ∃ k r i, s.agenda.head? = some (.env (.reset k r i)))

/-- R13 (the spec's own inference): LC changes no output of any run: two runs from states that differ in LC alone
agree in everything else after every number of steps. -/
def Obligations.LastCommandChangesNoOutput : Prop :=
  ∀ (cfg : Config) (n : Nat) (s : State) (l : Option Byte), ∃ t t',
    runWith cfg n s = .next t ∧ runWith cfg n { s with lc := l } = .next t' ∧ { t' with lc := t.lc } = t

/-- R25, D4, U2: what INBUF holds while no inbound event is pending is never read: two runs that differ in it alone
agree in everything else, and in INBUF too whenever IN_FLAG is 1. -/
def Obligations.UndeliveredInbufIsNeverRead : Prop :=
  ∀ (cfg : Config) (n : Nat) (s : State) (i : Byte), s.inFlag = false → ∃ t t',
    runWith cfg n s = .next t ∧ runWith cfg n { s with inbuf := i } = .next t' ∧
      { t' with inbuf := t.inbuf } = t ∧ (t.inFlag = true → t'.inbuf = t.inbuf)

/-- R117 (decision D17): no step faults and none is refused, in any state and configuration, and so no run stops. That
there is a next state also in Halted or with nothing enabled, where the spec has no step, is the model's choice (log
8). -/
def Obligations.NoStepEverStops : Prop :=
  (∀ s : State, ∃ t, step s = .next t) ∧
  (∀ (cfg : Config) (s : State), ∃ t, stepWith cfg s = .next t) ∧
  ∀ (cfg : Config) (n : Nat) (s : State), ∃ t, runWith cfg n s = .next t

/-! ### The step relation (43_dispatch.md section 6) -/

/-- R42, R100 to R110: a step of the machine is the relation's step for the move that heads the agenda; a block move that
is not enabled, and the block's own choice with nothing enabled, leave the state as it is (log 8); the block's own choice
is OUTBOUND only when INBOUND is not enabled (log 7, decision D10). -/
def Obligations.EveryMachineStepIsASpecStep : Prop :=
  ∀ (cfg : Config) (s t : State), stepWith cfg s = .next t →
    match s.agenda with
    | .env e :: rest => SpecStep cfg { s with agenda := rest } (.env e) t
    | .inbound :: rest =>
      SpecStep cfg { s with agenda := rest } .inbound t ∨ (inboundEnabled s = false ∧ t = { s with agenda := rest })
    | .outbound :: rest =>
      SpecStep cfg { s with agenda := rest } .outbound t ∨
        (outboundEnabled s = false ∧ t = { s with agenda := rest })
    | .block :: rest =>
      SpecStep cfg { s with agenda := rest } .inbound t ∨
        (inboundEnabled s = false ∧ SpecStep cfg { s with agenda := rest } .outbound t) ∨
        (inboundEnabled s = false ∧ outboundEnabled s = false ∧ t = { s with agenda := rest })
    | [] =>
      SpecStep cfg s .inbound t ∨ (inboundEnabled s = false ∧ SpecStep cfg s .outbound t) ∨
        (inboundEnabled s = false ∧ outboundEnabled s = false ∧ t = s)

/-- R42, R100 to R110, U12: every finite run of the step relation, with either order of pending events and the
environment placed anywhere, is a run of the machine, whose agenda lists its moves. -/
def Obligations.EverySpecRunIsAMachineRun : Prop :=
  ∀ (cfg : Config) (s t : State) (moves rest : List Move), SpecRun cfg s moves t →
    runWith cfg moves.length { s with agenda := moves ++ rest } = .next { t with agenda := rest }

/-- R113 (weak fairness is the model's only premise, decision D14): in a weakly fair run, a flag set while the block is
Running is eventually 0. -/
def Obligations.PendingEventsAreEventuallyHandled : Prop :=
  ∀ (cfg : Config) (states : Nat → State) (acts : Nat → Option Move), FairRun cfg states acts → ∀ n,
    Running (states n) →
    ((states n).inFlag = true → ∃ k, n < k ∧ (states k).inFlag = false) ∧
    ((states n).outFlag = true → ∃ k, n < k ∧ (states k).outFlag = false)

/-! ### The event script and the synchronous realisation -/

/-- R59 (decision D13; two block steps are the model's reading, log 25): after a `CMD` or `TXRDY` line without `nowait`
the Running block is quiescent and has applied the command, whatever was pending before; in a Halted block nothing runs
and the line's flag stays set, after `CMD` and after `TXRDY` (R106, log 8). -/
def Obligations.WaitingScriptLineSettles : Prop :=
  ∀ (cfg : Config) (s : State) (rest : List Move),
    (∀ b : Byte, Running s → ∃ t,
      runWith cfg 3 { s with agenda := (ScriptLine.cmd b false).moves cfg ++ rest } = .next t ∧
        Quiescent t ∧ t.agenda = rest ∧ t.inbuf = b ∧
        match cfg.decodeCommand b with
        | some (v, c) => t.os = v ∧ t.lc = some b ∧ t.outbuf = ⟨b, c⟩
        | none => t.os = s.os ∧ t.lc = s.lc ∧ t.outbuf = s.outbuf) ∧
    (Running s → ∃ t, runWith cfg 3 { s with agenda := (ScriptLine.txrdy false).moves cfg ++ rest } = .next t ∧
      Quiescent t ∧ t.agenda = rest) ∧
    (∀ b : Byte, s.run = .halted →
      runWith cfg 3 { s with agenda := (ScriptLine.cmd b false).moves cfg ++ rest } =
        .next { s with inbuf := b, inFlag := true, agenda := rest }) ∧
    (s.run = .halted →
      runWith cfg 3 { s with agenda := (ScriptLine.txrdy false).moves cfg ++ rest } =
        .next { s with outFlag := true, agenda := rest })

/-- R59: a script is its moves: the machine with the script's agenda does what the script does, line after line. -/
def Obligations.ScriptRunIsAMachineRun : Prop :=
  ∀ (cfg : Config) (lines : List ScriptLine) (s : State) (rest : List Move),
    runWith cfg (scriptAgenda cfg lines).length { s with agenda := scriptAgenda cfg lines ++ rest } =
      andThen (runScript cfg lines s) (fun t => .next { t with agenda := rest })

/-- R59: an `EXPECT` line is no step and claims its condition of the state the lines before it lead to; a script whose
first line is a reset runs on from the state of that reset, whatever the reset state held. -/
def Obligations.ExpectIsAClaimAndNoStep : Prop :=
  (∀ (cfg : Config) (before after : List ScriptLine) (claim : State → Prop) (s : State),
    runScript cfg (before ++ .expect claim :: after) s = runScript cfg (before ++ after) s ∧
    (scriptHolds cfg (before ++ .expect claim :: after) s ↔
      scriptHolds cfg before s ∧ ∃ t, runScript cfg before s = .next t ∧ claim t ∧ scriptHolds cfg after t)) ∧
  ∀ (cfg : Config) (lines : List ScriptLine) (r : Payload) (i : Byte),
    runFromReset cfg (.resetOk r i :: lines) = runScript cfg lines (resetTo true r i State.reset) ∧
    runFromReset cfg (.resetFail r i :: lines) = runScript cfg lines (resetTo false r i State.reset) ∧
    (holdsFromReset cfg (.resetOk r i :: lines) ↔ scriptHolds cfg lines (resetTo true r i State.reset)) ∧
    (holdsFromReset cfg (.resetFail r i :: lines) ↔ scriptHolds cfg lines (resetTo false r i State.reset))

/-- R141, R105 (the spec's own realisation, D14): one clock edge after the release of reset does what INBOUND and
OUTBOUND do one after the other on the flags and the byte at the ports (in Halted or with a flag 0 by log 8); an edge with
`rst` asserted and the edge that releases it leave the values of R25. In that last clause it is the model's choice (log 22)
that `rst` is sampled at the edge and that OUTBUF is the OUTBUF_RESET of the first edge with `rst` asserted. -/
def Obligations.ClockEdgeIsBothBlockSteps : Prop :=
  (∀ (cfg : Config) (r : Payload) (s : State) (p : SyncIn), p.rst = false → ∃ t,
    runWith cfg 2 { s with inFlag := p.inFlag, inbuf := p.inByte, outFlag := p.outFlag,
                           agenda := [.inbound, .outbound] } = .next t ∧
      syncEdge cfg r ⟨s.run, s.os, s.lc, s.outbuf, false⟩ p = ⟨t.run, t.os, t.lc, t.outbuf, false⟩ ∧
      t.inFlag = (p.inFlag && !(syncOut cfg r ⟨s.run, s.os, s.lc, s.outbuf, false⟩ p).inClear) ∧
      t.outFlag = (p.outFlag && !(syncOut cfg r ⟨s.run, s.os, s.lc, s.outbuf, false⟩ p).outClear)) ∧
  ∀ (cfg : Config) (r r' : Payload) (g : SyncRegs) (p q : SyncIn) (s : State) (i : Byte),
    g.inReset = false → p.rst = true → q.rst = false →
    syncEdge cfg r' (syncEdge cfg r g p) q =
      ⟨(resetTo q.initOk r i s).run, (resetTo q.initOk r i s).os, (resetTo q.initOk r i s).lc,
        (resetTo q.initOk r i s).outbuf, false⟩

/-- R141, R25 (the spec's own realisation, D14): at an edge with `rst` asserted the registers hold OS Off, LC none and
OUTBUF_RESET; that edge and the edge of the release pulse neither clear, and the release, sampling `init_ok`, changes no
register but RUN and the model's own `inReset`. The model's choices (log 22): `rst` is sampled at the edge, `inReset`
tells the release, and OUTBUF_RESET is drawn at the first edge with `rst` asserted and held while it stays asserted. No
clause says what RUN is while `rst` is asserted. -/
def Obligations.ResetEdgesLoadAndNeverPulse : Prop :=
  (∀ (cfg : Config) (r : Payload) (g : SyncRegs) (p : SyncIn), p.rst = true →
    (syncEdge cfg r g p).os = .off ∧ (syncEdge cfg r g p).lc = none ∧ (syncEdge cfg r g p).inReset = true ∧
    (syncEdge cfg r g p).outbuf = (if g.inReset then g.outbuf else r) ∧
    syncOut cfg r g p =
      ⟨false, false, payloadWord (if g.inReset then g.outbuf else r), 0b000#3, 0b00#2⟩) ∧
  ∀ (cfg : Config) (r : Payload) (g : SyncRegs) (p : SyncIn), g.inReset = true → p.rst = false →
    syncEdge cfg r g p = { g with run := if p.initOk then .running else .halted, inReset := false } ∧
    (syncOut cfg r g p).inClear = false ∧ (syncOut cfg r g p).outClear = false

/-- R141, R33, R10 (decisions D14, D16, D1): after every edge, a reset edge too, the ports show the registers the edge
leaves: `status` their payload with byte 0 in bits 7 to 0 and byte 1 in bits 15 to 8, bit k-1 of `out_active` line k, and
`os` the state, in a code that tells the four apart. -/
def Obligations.PortsShowTheRegisters : Prop :=
  (∀ (cfg : Config) (r : Payload) (g : SyncRegs) (p : SyncIn),
    (syncOut cfg r g p).status = payloadWord (syncEdge cfg r g p).outbuf ∧
    (syncOut cfg r g p).status.extractLsb' 0 8 = (syncEdge cfg r g p).outbuf.echo ∧
    (syncOut cfg r g p).status.extractLsb' 8 8 = (syncEdge cfg r g p).outbuf.status ∧
    (syncOut cfg r g p).outActive = activeBits (syncEdge cfg r g p).os ∧
    (syncOut cfg r g p).os = osCode (syncEdge cfg r g p).os) ∧
  (∀ s : State, (activeBits s.os).getLsbD 0 = outActive .line1 s ∧ (activeBits s.os).getLsbD 1 = outActive .line2 s ∧
    (activeBits s.os).getLsbD 2 = outActive .line3 s) ∧
  (∀ p : Payload, (payloadWord p).extractLsb' 0 8 = p.echo ∧ (payloadWord p).extractLsb' 8 8 = p.status) ∧
  (∀ u v : OutputState, osCode u = osCode v → u = v) ∧
  osCode .off = 0b00#2 ∧ osCode .output1 = 0b01#2 ∧ osCode .output2 = 0b10#2 ∧ osCode .output3 = 0b11#2
end

