-- ==== Sys2Proof/Laws/Decode.lean ====
section
/-! SUPPORT. What the decoder can answer, said once. -/

namespace Sys2Proof

/-- A row with mask 0xFF hits exactly its own byte: matching is on all eight bits. -/
theorem hits_fullMask (v : Byte) (i : Instr) (b : Byte) : (⟨0xFF#8, v, i⟩ : OpcodeRow).hits b = (b == v) := by
  have h : b &&& 0xFF#8 = b := by simpa using BitVec.and_allOnes (x := b)
  simp [OpcodeRow.hits, h]

/-- The table decoder as a chain of equality tests. -/
theorem decodeInstr_eq (cfg : Config) (b : Byte) :
    cfg.decodeInstr b =
      if b = cfg.cmdOff then .off else if b = cfg.cmdOut1 then .out1 else if b = cfg.cmdOut2 then .out2
      else if b = cfg.cmdOut3 then .out3 else .ign b := by
  simp [Config.decodeInstr, Config.opcodeRows, lookupRows, hits_fullMask]

/-- A recognised byte gives the state and the code of one of the four rows. -/
theorem decodeCommand_some_cases {cfg : Config} {b c : Byte} {v : OutputState}
    (h : cfg.decodeCommand b = some (v, c)) :
    (b = cfg.cmdOff ∧ v = .off ∧ c = cfg.stOff) ∨ (b = cfg.cmdOut1 ∧ v = .output1 ∧ c = cfg.stOut1) ∨
      (b = cfg.cmdOut2 ∧ v = .output2 ∧ c = cfg.stOut2) ∨ (b = cfg.cmdOut3 ∧ v = .output3 ∧ c = cfg.stOut3) := by
  unfold Config.decodeCommand at h
  split at h
  · simp_all
  · split at h
    · simp_all
    · split at h
      · simp_all
      · split at h
        · simp_all
        · cases h

/-- The decoder recognises exactly the four command bytes. -/
theorem decodeCommand_isSome (cfg : Config) (b : Byte) :
    (cfg.decodeCommand b).isSome = cfg.recognised b := by
  unfold Config.decodeCommand Config.recognised
  split
  · simp [*]
  · split
    · simp [*]
    · split
      · simp [*]
      · split <;> simp [*]

/-- The status map, one equation for each state. -/
@[simp] theorem status_off (cfg : Config) : cfg.status .off = cfg.stOff := rfl
@[simp] theorem status_output1 (cfg : Config) : cfg.status .output1 = cfg.stOut1 := rfl
@[simp] theorem status_output2 (cfg : Config) : cfg.status .output2 = cfg.stOut2 := rfl
@[simp] theorem status_output3 (cfg : Config) : cfg.status .output3 = cfg.stOut3 := rfl

end Sys2Proof
end

