-- ==== Sys2Proof/Laws/State.lean ====
section
/-! SUPPORT. For each named update of State, one lemma per field, so that no later proof unfolds a record update. -/

namespace Sys2Proof.Machine

variable (s : State)

/-! ### Flags -/

@[simp] theorem flagClear_inFrame_run : (flagClear .inFrame s).run = s.run := rfl
@[simp] theorem flagClear_inFrame_os : (flagClear .inFrame s).os = s.os := rfl
@[simp] theorem flagClear_inFrame_lc : (flagClear .inFrame s).lc = s.lc := rfl
@[simp] theorem flagClear_inFrame_outbuf : (flagClear .inFrame s).outbuf = s.outbuf := rfl
@[simp] theorem flagClear_inFrame_inbuf : (flagClear .inFrame s).inbuf = s.inbuf := rfl
@[simp] theorem flagClear_inFrame_inFlag : (flagClear .inFrame s).inFlag = false := rfl
@[simp] theorem flagClear_inFrame_outFlag : (flagClear .inFrame s).outFlag = s.outFlag := rfl
@[simp] theorem flagClear_inFrame_outbufReset : (flagClear .inFrame s).outbufReset = s.outbufReset := rfl
@[simp] theorem flagClear_inFrame_agenda : (flagClear .inFrame s).agenda = s.agenda := rfl
@[simp] theorem flagClear_inFrame_txReads : (flagClear .inFrame s).txReads = s.txReads := rfl

@[simp] theorem flagClear_outFrame_run : (flagClear .outFrame s).run = s.run := rfl
@[simp] theorem flagClear_outFrame_os : (flagClear .outFrame s).os = s.os := rfl
@[simp] theorem flagClear_outFrame_lc : (flagClear .outFrame s).lc = s.lc := rfl
@[simp] theorem flagClear_outFrame_outbuf : (flagClear .outFrame s).outbuf = s.outbuf := rfl
@[simp] theorem flagClear_outFrame_inbuf : (flagClear .outFrame s).inbuf = s.inbuf := rfl
@[simp] theorem flagClear_outFrame_inFlag : (flagClear .outFrame s).inFlag = s.inFlag := rfl
@[simp] theorem flagClear_outFrame_outFlag : (flagClear .outFrame s).outFlag = false := rfl
@[simp] theorem flagClear_outFrame_outbufReset : (flagClear .outFrame s).outbufReset = s.outbufReset := rfl
@[simp] theorem flagClear_outFrame_agenda : (flagClear .outFrame s).agenda = s.agenda := rfl
@[simp] theorem flagClear_outFrame_txReads : (flagClear .outFrame s).txReads = s.txReads := rfl

@[simp] theorem flagSet_inFrame_run : (flagSet .inFrame s).run = s.run := rfl
@[simp] theorem flagSet_inFrame_os : (flagSet .inFrame s).os = s.os := rfl
@[simp] theorem flagSet_inFrame_lc : (flagSet .inFrame s).lc = s.lc := rfl
@[simp] theorem flagSet_inFrame_outbuf : (flagSet .inFrame s).outbuf = s.outbuf := rfl
@[simp] theorem flagSet_inFrame_inbuf : (flagSet .inFrame s).inbuf = s.inbuf := rfl
@[simp] theorem flagSet_inFrame_inFlag : (flagSet .inFrame s).inFlag = true := rfl
@[simp] theorem flagSet_inFrame_outFlag : (flagSet .inFrame s).outFlag = s.outFlag := rfl
@[simp] theorem flagSet_inFrame_outbufReset : (flagSet .inFrame s).outbufReset = s.outbufReset := rfl
@[simp] theorem flagSet_inFrame_agenda : (flagSet .inFrame s).agenda = s.agenda := rfl
@[simp] theorem flagSet_inFrame_txReads : (flagSet .inFrame s).txReads = s.txReads := rfl

@[simp] theorem flagSet_outFrame_run : (flagSet .outFrame s).run = s.run := rfl
@[simp] theorem flagSet_outFrame_os : (flagSet .outFrame s).os = s.os := rfl
@[simp] theorem flagSet_outFrame_lc : (flagSet .outFrame s).lc = s.lc := rfl
@[simp] theorem flagSet_outFrame_outbuf : (flagSet .outFrame s).outbuf = s.outbuf := rfl
@[simp] theorem flagSet_outFrame_inbuf : (flagSet .outFrame s).inbuf = s.inbuf := rfl
@[simp] theorem flagSet_outFrame_inFlag : (flagSet .outFrame s).inFlag = s.inFlag := rfl
@[simp] theorem flagSet_outFrame_outFlag : (flagSet .outFrame s).outFlag = true := rfl
@[simp] theorem flagSet_outFrame_outbufReset : (flagSet .outFrame s).outbufReset = s.outbufReset := rfl
@[simp] theorem flagSet_outFrame_agenda : (flagSet .outFrame s).agenda = s.agenda := rfl
@[simp] theorem flagSet_outFrame_txReads : (flagSet .outFrame s).txReads = s.txReads := rfl

/-! ### Registers -/

@[simp] theorem setOutput_run (v : OutputState) : (setOutput v s).run = s.run := rfl
@[simp] theorem setOutput_os (v : OutputState) : (setOutput v s).os = v := rfl
@[simp] theorem setOutput_lc (v : OutputState) : (setOutput v s).lc = s.lc := rfl
@[simp] theorem setOutput_outbuf (v : OutputState) : (setOutput v s).outbuf = s.outbuf := rfl
@[simp] theorem setOutput_inbuf (v : OutputState) : (setOutput v s).inbuf = s.inbuf := rfl
@[simp] theorem setOutput_inFlag (v : OutputState) : (setOutput v s).inFlag = s.inFlag := rfl
@[simp] theorem setOutput_outFlag (v : OutputState) : (setOutput v s).outFlag = s.outFlag := rfl
@[simp] theorem setOutput_outbufReset (v : OutputState) : (setOutput v s).outbufReset = s.outbufReset := rfl
@[simp] theorem setOutput_agenda (v : OutputState) : (setOutput v s).agenda = s.agenda := rfl
@[simp] theorem setOutput_txReads (v : OutputState) : (setOutput v s).txReads = s.txReads := rfl

@[simp] theorem setLast_run (b : Byte) : (setLast b s).run = s.run := rfl
@[simp] theorem setLast_os (b : Byte) : (setLast b s).os = s.os := rfl
@[simp] theorem setLast_lc (b : Byte) : (setLast b s).lc = some b := rfl
@[simp] theorem setLast_outbuf (b : Byte) : (setLast b s).outbuf = s.outbuf := rfl
@[simp] theorem setLast_inbuf (b : Byte) : (setLast b s).inbuf = s.inbuf := rfl
@[simp] theorem setLast_inFlag (b : Byte) : (setLast b s).inFlag = s.inFlag := rfl
@[simp] theorem setLast_outFlag (b : Byte) : (setLast b s).outFlag = s.outFlag := rfl
@[simp] theorem setLast_outbufReset (b : Byte) : (setLast b s).outbufReset = s.outbufReset := rfl
@[simp] theorem setLast_agenda (b : Byte) : (setLast b s).agenda = s.agenda := rfl
@[simp] theorem setLast_txReads (b : Byte) : (setLast b s).txReads = s.txReads := rfl

/-! ### Signal buffers -/

@[simp] theorem storeBytes_signalInput_run (off : Nat) (v : List Byte) : (storeBytes .signalInput off v s).run = s.run := rfl
@[simp] theorem storeBytes_signalInput_os (off : Nat) (v : List Byte) : (storeBytes .signalInput off v s).os = s.os := rfl
@[simp] theorem storeBytes_signalInput_lc (off : Nat) (v : List Byte) : (storeBytes .signalInput off v s).lc = s.lc := rfl
@[simp] theorem storeBytes_signalInput_outbuf (off : Nat) (v : List Byte) : (storeBytes .signalInput off v s).outbuf = s.outbuf := rfl
@[simp] theorem storeBytes_signalInput_inbuf (off : Nat) (v : List Byte) : (storeBytes .signalInput off v s).inbuf = overlay off v 0 s.inbuf := rfl
@[simp] theorem storeBytes_signalInput_inFlag (off : Nat) (v : List Byte) : (storeBytes .signalInput off v s).inFlag = s.inFlag := rfl
@[simp] theorem storeBytes_signalInput_outFlag (off : Nat) (v : List Byte) : (storeBytes .signalInput off v s).outFlag = s.outFlag := rfl
@[simp] theorem storeBytes_signalInput_outbufReset (off : Nat) (v : List Byte) : (storeBytes .signalInput off v s).outbufReset = s.outbufReset := rfl
@[simp] theorem storeBytes_signalInput_agenda (off : Nat) (v : List Byte) : (storeBytes .signalInput off v s).agenda = s.agenda := rfl
@[simp] theorem storeBytes_signalInput_txReads (off : Nat) (v : List Byte) : (storeBytes .signalInput off v s).txReads = s.txReads := rfl

@[simp] theorem storeBytes_signalOutput_run (off : Nat) (v : List Byte) : (storeBytes .signalOutput off v s).run = s.run := rfl
@[simp] theorem storeBytes_signalOutput_os (off : Nat) (v : List Byte) : (storeBytes .signalOutput off v s).os = s.os := rfl
@[simp] theorem storeBytes_signalOutput_lc (off : Nat) (v : List Byte) : (storeBytes .signalOutput off v s).lc = s.lc := rfl
@[simp] theorem storeBytes_signalOutput_outbuf (off : Nat) (v : List Byte) : (storeBytes .signalOutput off v s).outbuf = ⟨overlay off v 0 s.outbuf.echo, overlay off v 1 s.outbuf.status⟩ := rfl
@[simp] theorem storeBytes_signalOutput_inbuf (off : Nat) (v : List Byte) : (storeBytes .signalOutput off v s).inbuf = s.inbuf := rfl
@[simp] theorem storeBytes_signalOutput_inFlag (off : Nat) (v : List Byte) : (storeBytes .signalOutput off v s).inFlag = s.inFlag := rfl
@[simp] theorem storeBytes_signalOutput_outFlag (off : Nat) (v : List Byte) : (storeBytes .signalOutput off v s).outFlag = s.outFlag := rfl
@[simp] theorem storeBytes_signalOutput_outbufReset (off : Nat) (v : List Byte) : (storeBytes .signalOutput off v s).outbufReset = s.outbufReset := rfl
@[simp] theorem storeBytes_signalOutput_agenda (off : Nat) (v : List Byte) : (storeBytes .signalOutput off v s).agenda = s.agenda := rfl
@[simp] theorem storeBytes_signalOutput_txReads (off : Nat) (v : List Byte) : (storeBytes .signalOutput off v s).txReads = s.txReads := rfl

/-! ### The block's OUTBOUND step -/

@[simp] theorem outbound_run : (outbound s).run = s.run := rfl
@[simp] theorem outbound_os : (outbound s).os = s.os := rfl
@[simp] theorem outbound_lc : (outbound s).lc = s.lc := rfl
@[simp] theorem outbound_outbuf : (outbound s).outbuf = s.outbuf := rfl
@[simp] theorem outbound_inbuf : (outbound s).inbuf = s.inbuf := rfl
@[simp] theorem outbound_inFlag : (outbound s).inFlag = s.inFlag := rfl
@[simp] theorem outbound_outFlag : (outbound s).outFlag = false := rfl
@[simp] theorem outbound_outbufReset : (outbound s).outbufReset = s.outbufReset := rfl
@[simp] theorem outbound_agenda : (outbound s).agenda = s.agenda := rfl
@[simp] theorem outbound_txReads : (outbound s).txReads = s.txReads := rfl

/-! ### The environment -/

@[simp] theorem deliver_run (b : Byte) : (deliver b s).run = s.run := rfl
@[simp] theorem deliver_os (b : Byte) : (deliver b s).os = s.os := rfl
@[simp] theorem deliver_lc (b : Byte) : (deliver b s).lc = s.lc := rfl
@[simp] theorem deliver_outbuf (b : Byte) : (deliver b s).outbuf = s.outbuf := rfl
@[simp] theorem deliver_inbuf (b : Byte) : (deliver b s).inbuf = b := rfl
@[simp] theorem deliver_inFlag (b : Byte) : (deliver b s).inFlag = true := rfl
@[simp] theorem deliver_outFlag (b : Byte) : (deliver b s).outFlag = s.outFlag := rfl
@[simp] theorem deliver_outbufReset (b : Byte) : (deliver b s).outbufReset = s.outbufReset := rfl
@[simp] theorem deliver_agenda (b : Byte) : (deliver b s).agenda = s.agenda := rfl
@[simp] theorem deliver_txReads (b : Byte) : (deliver b s).txReads = s.txReads := rfl

@[simp] theorem txReady_run : (txReady s).run = s.run := rfl
@[simp] theorem txReady_os : (txReady s).os = s.os := rfl
@[simp] theorem txReady_lc : (txReady s).lc = s.lc := rfl
@[simp] theorem txReady_outbuf : (txReady s).outbuf = s.outbuf := rfl
@[simp] theorem txReady_inbuf : (txReady s).inbuf = s.inbuf := rfl
@[simp] theorem txReady_inFlag : (txReady s).inFlag = s.inFlag := rfl
@[simp] theorem txReady_outFlag : (txReady s).outFlag = true := rfl
@[simp] theorem txReady_outbufReset : (txReady s).outbufReset = s.outbufReset := rfl
@[simp] theorem txReady_agenda : (txReady s).agenda = s.agenda := rfl
@[simp] theorem txReady_txReads : (txReady s).txReads = s.txReads := rfl

@[simp] theorem transmit_run : (transmit s).run = s.run := rfl
@[simp] theorem transmit_os : (transmit s).os = s.os := rfl
@[simp] theorem transmit_lc : (transmit s).lc = s.lc := rfl
@[simp] theorem transmit_outbuf : (transmit s).outbuf = s.outbuf := rfl
@[simp] theorem transmit_inbuf : (transmit s).inbuf = s.inbuf := rfl
@[simp] theorem transmit_inFlag : (transmit s).inFlag = s.inFlag := rfl
@[simp] theorem transmit_outFlag : (transmit s).outFlag = s.outFlag := rfl
@[simp] theorem transmit_outbufReset : (transmit s).outbufReset = s.outbufReset := rfl
@[simp] theorem transmit_agenda : (transmit s).agenda = s.agenda := rfl
@[simp] theorem transmit_txReads : (transmit s).txReads = s.outbuf :: s.txReads := rfl

@[simp] theorem resetTo_run (k : Bool) (r : Payload) (i : Byte) : (resetTo k r i s).run = if k then .running else .halted := rfl
@[simp] theorem resetTo_os (k : Bool) (r : Payload) (i : Byte) : (resetTo k r i s).os = .off := rfl
@[simp] theorem resetTo_lc (k : Bool) (r : Payload) (i : Byte) : (resetTo k r i s).lc = none := rfl
@[simp] theorem resetTo_outbuf (k : Bool) (r : Payload) (i : Byte) : (resetTo k r i s).outbuf = r := rfl
@[simp] theorem resetTo_inbuf (k : Bool) (r : Payload) (i : Byte) : (resetTo k r i s).inbuf = i := rfl
@[simp] theorem resetTo_inFlag (k : Bool) (r : Payload) (i : Byte) : (resetTo k r i s).inFlag = false := rfl
@[simp] theorem resetTo_outFlag (k : Bool) (r : Payload) (i : Byte) : (resetTo k r i s).outFlag = false := rfl
@[simp] theorem resetTo_outbufReset (k : Bool) (r : Payload) (i : Byte) : (resetTo k r i s).outbufReset = r := rfl
@[simp] theorem resetTo_agenda (k : Bool) (r : Payload) (i : Byte) : (resetTo k r i s).agenda = s.agenda := rfl
@[simp] theorem resetTo_txReads (k : Bool) (r : Payload) (i : Byte) : (resetTo k r i s).txReads = s.txReads := rfl

/-! ### Placing a command -/

@[simp] theorem withFetchWord_run (nbits w : Nat) : (s.withFetchWord nbits w).run = .running := rfl
@[simp] theorem withFetchWord_os (nbits w : Nat) : (s.withFetchWord nbits w).os = s.os := rfl
@[simp] theorem withFetchWord_lc (nbits w : Nat) : (s.withFetchWord nbits w).lc = s.lc := rfl
@[simp] theorem withFetchWord_outbuf (nbits w : Nat) : (s.withFetchWord nbits w).outbuf = s.outbuf := rfl
@[simp] theorem withFetchWord_inbuf (nbits w : Nat) : (s.withFetchWord nbits w).inbuf = tableByte nbits w := rfl
@[simp] theorem withFetchWord_inFlag (nbits w : Nat) : (s.withFetchWord nbits w).inFlag = true := rfl
@[simp] theorem withFetchWord_outFlag (nbits w : Nat) : (s.withFetchWord nbits w).outFlag = s.outFlag := rfl
@[simp] theorem withFetchWord_outbufReset (nbits w : Nat) : (s.withFetchWord nbits w).outbufReset = s.outbufReset := rfl
@[simp] theorem withFetchWord_agenda (nbits w : Nat) : (s.withFetchWord nbits w).agenda = .inbound :: s.agenda := rfl
@[simp] theorem withFetchWord_txReads (nbits w : Nat) : (s.withFetchWord nbits w).txReads = s.txReads := rfl

end Sys2Proof.Machine
end

