-- ==== Sys2Proof/Laws/Ops.lean ====
section
/-! SUPPORT. One lemma for each shared operation, saying everything it can do. -/

namespace Sys2Proof.Machine

@[simp] theorem andThen_next (s : State) (f : State → Result) : andThen (.next s) f = f s := rfl

/-- The INBOUND step's read is in range and gives INBUF. -/
@[simp] theorem fetchCommand_eq (s : State) : fetchCommand s = .ok s.inbuf := rfl

/-- The shared block of the recognised commands: three writes, nothing else, always a next state. -/
@[simp] theorem acceptCommand_eq (b : Byte) (v : OutputState) (c : Byte) (s : State) :
    acceptCommand b v c s = .next { s with os := v, lc := some b, outbuf := ⟨b, c⟩ } := rfl

/-- A read answers bytes exactly when it is in range. -/
theorem frameRead_eq_ok_iff (sig : SignalId) (off len : Nat) (s : State) (bs : List Byte) :
    frameRead sig off len s = .ok bs ↔ sig.InRange off len ∧ bs = ((signalBytes sig s).drop off).take len := by
  unfold frameRead
  split
  · rw [and_iff_right ‹_›]; simp [eq_comm]
  · exact ⟨nofun, fun h => absurd h.1 ‹_›⟩

/-- A write answers a next state exactly when it is in range. -/
theorem frameWrite_eq_next_iff (sig : SignalId) (off : Nat) (v : List Byte) (s t : State) :
    frameWrite sig off v s = .next t ↔ sig.InRange off v.length ∧ t = storeBytes sig off v s := by
  unfold frameWrite
  split
  · rw [and_iff_right ‹_›]; simp [eq_comm]
  · exact ⟨nofun, fun h => absurd h.1 ‹_›⟩

/-- A signal always holds all of its bytes. -/
theorem signalBytes_length (sig : SignalId) (s : State) : (signalBytes sig s).length = sig.size := by
  cases sig <;> rfl

/-- The state after INBOUND on the command byte in INBUF (R101). -/
def inboundState (cfg : Config) (s : State) : State :=
  match cfg.decodeCommand s.inbuf with
  | some (v, c) => { s with os := v, lc := some s.inbuf, outbuf := ⟨s.inbuf, c⟩, inFlag := false }
  | none => { s with inFlag := false }

/-- INBOUND always answers a next state. -/
theorem inboundWith_eq (cfg : Config) (s : State) : inboundWith cfg s = .next (inboundState cfg s) := by
  unfold inboundWith inboundState
  simp only [fetchCommand_eq]
  cases h : cfg.decodeCommand s.inbuf <;> rfl

/-- Everything INBOUND can do to a state. -/
theorem inboundState_cases (cfg : Config) (s : State) :
    (∃ v c, cfg.decodeCommand s.inbuf = some (v, c) ∧
      inboundState cfg s = { s with os := v, lc := some s.inbuf, outbuf := ⟨s.inbuf, c⟩, inFlag := false }) ∨
    (cfg.decodeCommand s.inbuf = none ∧ inboundState cfg s = { s with inFlag := false }) := by
  unfold inboundState
  cases h : cfg.decodeCommand s.inbuf with
  | none => exact .inr ⟨rfl, rfl⟩
  | some p => exact .inl ⟨p.1, p.2, rfl, rfl⟩

@[simp] theorem inboundState_run (cfg : Config) (s : State) : (inboundState cfg s).run = s.run := by
  unfold inboundState; split <;> rfl
@[simp] theorem inboundState_inbuf (cfg : Config) (s : State) : (inboundState cfg s).inbuf = s.inbuf := by
  unfold inboundState; split <;> rfl
@[simp] theorem inboundState_inFlag (cfg : Config) (s : State) : (inboundState cfg s).inFlag = false := by
  unfold inboundState; split <;> rfl
@[simp] theorem inboundState_outFlag (cfg : Config) (s : State) : (inboundState cfg s).outFlag = s.outFlag := by
  unfold inboundState; split <;> rfl
@[simp] theorem inboundState_outbufReset (cfg : Config) (s : State) :
    (inboundState cfg s).outbufReset = s.outbufReset := by
  unfold inboundState; split <;> rfl
@[simp] theorem inboundState_agenda (cfg : Config) (s : State) : (inboundState cfg s).agenda = s.agenda := by
  unfold inboundState; split <;> rfl
@[simp] theorem inboundState_txReads (cfg : Config) (s : State) : (inboundState cfg s).txReads = s.txReads := by
  unfold inboundState; split <;> rfl

end Sys2Proof.Machine
end

