-- ==== Sys2Proof/Laws/PerInstr.lean ====
section
/-! SUPPORT. The family OneByte: every command is one byte (R56: "there is no compressed, prefixed or variable-length
form"). -/

namespace Sys2Proof.Laws.OneByte

/-- R50, R56: a command's encoding is one byte, in every configuration. -/
def Statement (i : Instr) : Prop := ∀ cfg : Config, (cfg.encode i).length = 1

theorem off : Statement .off := fun _ => rfl
theorem out1 : Statement .out1 := fun _ => rfl
theorem out2 : Statement .out2 := fun _ => rfl
theorem out3 : Statement .out3 := fun _ => rfl
theorem ign (b : Byte) : Statement (.ign b) := fun _ => rfl

end Sys2Proof.Laws.OneByte
end

