-- ==== Sys2Proof/Laws/Step.lean ====
section
/-! SUPPORT. Everything one step can do, said once. -/

namespace Sys2Proof.Machine

/-- INBOUND is enabled exactly in Running with IN_FLAG set. -/
theorem inboundEnabled_iff (s : State) : inboundEnabled s = true ↔ s.run = .running ∧ s.inFlag = true := by
  simp [inboundEnabled, flagTest]

/-- OUTBOUND is enabled exactly in Running with OUT_FLAG set. -/
theorem outboundEnabled_iff (s : State) : outboundEnabled s = true ↔ s.run = .running ∧ s.outFlag = true := by
  simp [outboundEnabled, flagTest]

/-- The state with the first move taken off the agenda. -/
def popped (s : State) : State := { s with agenda := s.agenda.tail }

/-- A step of the block's own choice: INBOUND, OUTBOUND, or nothing when neither is enabled. -/
theorem blockStepBy_cases {cfg : Config} {s t : State} (h : blockStepBy (inboundWith cfg) s = .next t) :
    (inboundEnabled s = true ∧ t = inboundState cfg s) ∨
      (inboundEnabled s = false ∧ outboundEnabled s = true ∧ t = outbound s) ∨
      (inboundEnabled s = false ∧ outboundEnabled s = false ∧ t = s) := by
  unfold blockStepBy at h
  rw [inboundWith_eq] at h
  split at h
  · simp_all
  · split at h <;> simp_all

/-- A step does one of four things: nothing but taking a move off the agenda, INBOUND, OUTBOUND, or the environment's
step that heads the agenda. -/
theorem stepWith_cases {cfg : Config} {s t : State} (h : stepWith cfg s = .next t) :
    t = popped s ∨
      (inboundEnabled s = true ∧ (∀ e, s.agenda.head? ≠ some (.env e)) ∧ t = inboundState cfg (popped s)) ∨
      (outboundEnabled s = true ∧ (∀ e, s.agenda.head? ≠ some (.env e)) ∧ t = outbound (popped s)) ∨
      ∃ e, s.agenda.head? = some (.env e) ∧ t = envStep e (popped s) := by
  unfold stepWith stepBy at h
  cases ha : s.agenda with
  | nil =>
    have hp : popped s = s := by cases s; simp_all [popped]
    simp only [ha] at h
    rw [hp]
    obtain ⟨h1, h2⟩ | ⟨-, h1, h2⟩ | ⟨-, -, h2⟩ := blockStepBy_cases h <;> simp_all
  | cons m rest =>
    have hp : popped s = { s with agenda := rest } := by simp [popped, ha]
    simp only [ha] at h
    rw [← hp] at h
    have hi : inboundEnabled (popped s) = inboundEnabled s := rfl
    have ho : outboundEnabled (popped s) = outboundEnabled s := rfl
    cases m with
    | env e => simp_all [moveBy]
    | inbound => simp only [moveBy, inboundWith_eq] at h; split at h <;> simp_all
    | outbound => simp only [moveBy] at h; split at h <;> simp_all
    | block =>
      simp only [moveBy] at h
      obtain ⟨h1, h2⟩ | ⟨-, h1, h2⟩ | ⟨-, -, h2⟩ := blockStepBy_cases h <;> simp_all

end Sys2Proof.Machine
end

