-- ==== Sys2Proof/Laws/Run.lean ====
section
/-! SUPPORT. Runs of the machine, one step at a time. -/

namespace Sys2Proof.Machine

@[simp] theorem runWith_zero (cfg : Config) (s : State) : runWith cfg 0 s = .next s := rfl

/-- The first step of a run comes first. -/
theorem runWith_succ (cfg : Config) (n : Nat) (s : State) :
    runWith cfg (n + 1) s = andThen (stepWith cfg s) (runWith cfg n) := by
  simp only [runWith, Host.Core.run, coreWith]
  cases stepWith cfg s <;> rfl

end Sys2Proof.Machine
end

