-- ==== Sys2Proof/Laws/Script.lean ====
section
/-! SUPPORT. Scripts and their runs, one line at a time. -/

namespace Sys2Proof.Machine

@[simp] theorem runMoves_nil (inb : State → Result) (s : State) : runMoves inb [] s = .next s := rfl

theorem runMoves_cons (inb : State → Result) (m : Move) (ms : List Move) (s : State) :
    runMoves inb (m :: ms) s = andThen (moveBy inb m s) (runMoves inb ms) := rfl

/-- Sequencing is associative. -/
theorem andThen_assoc (o : Result) (f g : State → Result) :
    andThen (andThen o f) g = andThen o (fun s => andThen (f s) g) := by
  cases o <;> rfl

/-- Moves in two parts are the second part after the first. -/
theorem runMoves_append (inb : State → Result) (ms ns : List Move) (s : State) :
    runMoves inb (ms ++ ns) s = andThen (runMoves inb ms s) (runMoves inb ns) := by
  induction ms generalizing s with
  | nil => rfl
  | cons m ms ih => rw [List.cons_append, runMoves_cons, runMoves_cons, andThen_assoc, funext ih]

@[simp] theorem scriptAgenda_nil (cfg : Config) : scriptAgenda cfg [] = [] := rfl

theorem scriptAgenda_cons (cfg : Config) (l : ScriptLine) (lines : List ScriptLine) :
    scriptAgenda cfg (l :: lines) = l.moves cfg ++ scriptAgenda cfg lines := List.flatMap_cons

theorem scriptAgenda_append (cfg : Config) (ls ls' : List ScriptLine) :
    scriptAgenda cfg (ls ++ ls') = scriptAgenda cfg ls ++ scriptAgenda cfg ls' := List.flatMap_append

@[simp] theorem runScript_nil (cfg : Config) (s : State) : runScript cfg [] s = .next s := rfl

/-- A script is its first line, then the rest. -/
theorem runScript_cons (cfg : Config) (l : ScriptLine) (lines : List ScriptLine) (s : State) :
    runScript cfg (l :: lines) s =
      andThen (runMoves (inboundWith cfg) (l.moves cfg) s) (runScript cfg lines) := by
  simp only [runScript, scriptAgenda_cons, runMoves_append]
  rfl

end Sys2Proof.Machine
end

