-- ==== Sys2Proof/Laws/Sync.lean ====
section
/-! SUPPORT. The three kinds of clock edge of the synchronous realisation, and the one kind at which the block acts. -/

namespace Sys2Proof.Machine

/-- An edge with `rst` asserted. -/
theorem syncEdge_asserted {cfg : Config} {r : Payload} {g : SyncRegs} {p : SyncIn} (h : p.rst = true) :
    syncEdge cfg r g p = syncAssert r g := by simp [syncEdge, h]

/-- The edge that releases `rst`. -/
theorem syncEdge_released {cfg : Config} {r : Payload} {g : SyncRegs} {p : SyncIn} (h : p.rst = false)
    (hg : g.inReset = true) : syncEdge cfg r g p = syncRelease p.initOk g := by simp [syncEdge, h, hg]

/-- A later edge. -/
theorem syncEdge_later {cfg : Config} {r : Payload} {g : SyncRegs} {p : SyncIn} (h : p.rst = false)
    (hg : g.inReset = false) :
    syncEdge cfg r g p =
      if g.run = .running ∧ p.inFlag = true then syncLoad cfg p.inByte g else g := by
  simp [syncEdge, syncActs, h, hg]

/-- The block acts exactly at a later edge in Running. -/
theorem syncActs_iff (g : SyncRegs) (p : SyncIn) :
    syncActs g p = true ↔ p.rst = false ∧ g.inReset = false ∧ g.run = .running := by
  simp [syncActs, and_assoc]

end Sys2Proof.Machine
end

