-- ==== Sys2Proof/Tests/Slice0.lean ====
section
/-! SUPPORT. Tests whose expected results are the spec's: the table of R53 written out bit by bit, the vectors V1 to V26
and the rows of P7 of 95_test_vectors.md; the well-formedness smoke test; and for each statement with hypotheses a
witness that meets them. -/

namespace Sys2Proof.Tests

open Sys2Proof.Machine

/-- The next state of an outcome. -/
def nextState : Result → Option State
  | .next t => some t
  | _ => none

/-- The 7-tuple of 95_test_vectors.md section 0, with OUTBUF_RESET `[0x5A, 0xA5]` and an empty agenda. -/
def st (run : Run) (os : OutputState) (lc : Option Byte) (echo status inbuf : Byte) (inFlag outFlag : Bool)
    (agenda : List Move := []) : State where
  run := run
  os := os
  lc := lc
  outbuf := ⟨echo, status⟩
  inbuf := inbuf
  inFlag := inFlag
  outFlag := outFlag
  outbufReset := ⟨0x5A#8, 0xA5#8⟩
  agenda := agenda
  txReads := []

/-- A Running state after reset with the command `b` pending. -/
def pending (b : Byte) (agenda : List Move := []) : State := st .running .off none 0x5A#8 0xA5#8 b true false agenda

/-! ### Decoding: the words of R53, bit 7 first -/

theorem test_decode_off : decode 0b00000000#8 = .off := by decide
theorem test_decode_out1 : decode 0b00010001#8 = .out1 := by decide
theorem test_decode_out2 : decode 0b00100010#8 = .out2 := by decide
theorem test_decode_out3 : decode 0b00110011#8 = .out3 := by decide
theorem test_decode_ign : decode 0b10011001#8 = .ign 0b10011001#8 := by decide

/-- The corner bytes of 95_test_vectors.md section 2.1 that are `none`. -/
theorem test_decode_corner_bytes :
    ∀ b ∈ [0x01#8, 0x80#8, 0x10#8, 0x12#8, 0x13#8, 0x21#8, 0x23#8, 0x30#8, 0x03#8, 0x32#8, 0x34#8, 0x44#8, 0x55#8,
      0xAA#8, 0xBB#8, 0xCC#8, 0xDD#8, 0xEE#8, 0xFF#8, 0x7F#8, 0xB3#8], decode b = .ign b := by decide

/-- R56: a command is one byte. -/
theorem test_decodeBytes_wrong_length :
    (Config.source.decodeBytes []).toOption = none ∧ (Config.source.decodeBytes [0x11#8, 0xAA#8]).toOption = none := by
  decide

/-- A table word longer than one byte is no command, and the bits above `nbits` are 0. -/
theorem test_decodeTableWord :
    decodeTableWord 8 0x33 = some .out3 ∧ decodeTableWord 16 0x33 = none ∧ decodeTableWord 4 0x33 = some (.ign 0x03#8) := by
  decide

/-- R53: the encoder's words. -/
theorem test_encode : [Instr.off, .out1, .out2, .out3, .ign 0x99#8].map encode =
    [[0x00#8], [0x11#8], [0x22#8], [0x33#8], [0x99#8]] := by decide

/-! ### Well-formedness: IGN with a recognised byte is refused -/

theorem test_wellFormed_refuses_ign_off : (Instr.ign 0x00#8).wellFormed Config.source = false := by decide
theorem test_wellFormed_refuses_ign_out1 : (Instr.ign 0x11#8).wellFormed Config.source = false := by decide
theorem test_wellFormed_refuses_ign_out2 : (Instr.ign 0x22#8).wellFormed Config.source = false := by decide
theorem test_wellFormed_refuses_ign_out3 : (Instr.ign 0x33#8).wellFormed Config.source = false := by decide
/-- R4: a configuration with two equal command bytes is refused. -/
theorem test_distinctCommands_refuses : ¬({ cmdOut3 := 0x22#8 } : Config).DistinctCommands := by decide

/-! ### One step for each command: V1 to V12 -/

theorem test_step_off_V1 : nextState (step (pending 0x00#8)) =
    some (st .running .off (some 0x00#8) 0x00#8 0xDD#8 0x00#8 false false) := by decide
theorem test_step_off_V8 : nextState (step (st .running .output3 (some 0x33#8) 0x33#8 0xCC#8 0x00#8 true true)) =
    some (st .running .off (some 0x00#8) 0x00#8 0xDD#8 0x00#8 false true) := by decide
theorem test_step_out1_V2 : nextState (step (pending 0x11#8)) =
    some (st .running .output1 (some 0x11#8) 0x11#8 0xAA#8 0x11#8 false false) := by decide
theorem test_step_out1_V6 : nextState (step (st .running .output1 (some 0x11#8) 0x11#8 0xAA#8 0x11#8 true false)) =
    some (st .running .output1 (some 0x11#8) 0x11#8 0xAA#8 0x11#8 false false) := by decide
theorem test_step_out2_V3 : nextState (step (pending 0x22#8)) =
    some (st .running .output2 (some 0x22#8) 0x22#8 0xBB#8 0x22#8 false false) := by decide
theorem test_step_out3_V4 : nextState (step (pending 0x33#8)) =
    some (st .running .output3 (some 0x33#8) 0x33#8 0xCC#8 0x33#8 false false) := by decide
theorem test_step_out3_V7 : nextState (step (st .running .output1 (some 0x11#8) 0x11#8 0xAA#8 0x33#8 true false)) =
    some (st .running .output3 (some 0x33#8) 0x33#8 0xCC#8 0x33#8 false false) := by decide
theorem test_step_ign_V5 : nextState (step (pending 0x99#8)) =
    some (st .running .off none 0x5A#8 0xA5#8 0x99#8 false false) := by decide
theorem test_step_ign_V12 : nextState (step (st .running .output2 (some 0x22#8) 0x22#8 0xBB#8 0xFF#8 true true)) =
    some (st .running .output2 (some 0x22#8) 0x22#8 0xBB#8 0xFF#8 false true) := by decide

/-! ### OUTBOUND, the environment, reset and Halted: V13 to V26 -/

theorem test_outbound_V15 :
    nextState (step (st .running .output1 (some 0x11#8) 0x11#8 0xAA#8 0x33#8 true true [.outbound])) =
      some (st .running .output1 (some 0x11#8) 0x11#8 0xAA#8 0x33#8 true false) := by decide
theorem test_both_flags_inbound_first :
    nextState (step (st .running .output1 (some 0x11#8) 0x11#8 0xAA#8 0x33#8 true true)) =
      some (st .running .output3 (some 0x33#8) 0x33#8 0xCC#8 0x33#8 false true) := by decide
theorem test_deliver_overrun_V17 : nextState (step (pending 0x11#8 [.env (.deliver 0x22#8)])) =
    some (pending 0x22#8) := by decide
theorem test_txrdy_V18 :
    nextState (step (st .running .output2 (some 0x22#8) 0x22#8 0xBB#8 0x22#8 false false [.env .txrdy])) =
      some (st .running .output2 (some 0x22#8) 0x22#8 0xBB#8 0x22#8 false true) := by decide
theorem test_tx_lags_V22 : (nextState (step (pending 0x11#8 [.env .tx]))).map State.txReads =
    some [⟨0x5A#8, 0xA5#8⟩] := by decide
theorem test_reset_V23 :
    nextState (step (st .running .output3 (some 0x33#8) 0x33#8 0xCC#8 0x33#8 true true
      [.env (.reset true ⟨0x5A#8, 0xA5#8⟩ 0x77#8)])) =
      some (st .running .off none 0x5A#8 0xA5#8 0x77#8 false false) := by decide
theorem test_halted_V25 : nextState (step (st .halted .off none 0x5A#8 0xA5#8 0x11#8 true true)) =
    some (st .halted .off none 0x5A#8 0xA5#8 0x11#8 true true) := by decide

/-- R59: a `CMD` line is a delivery and two block steps; a `nowait` line is the delivery alone. -/
theorem test_script : scriptAgenda Config.source [.out1, .cmd 0x22#8 true, .tx, .step] =
    [.env (.deliver 0x11#8), .block, .block, .env (.deliver 0x22#8), .env .tx, .block] := by decide

/-- P1's first lines: `RESET ok`, `CMD 0x11`, and its `EXPECT` of OS and OUTBUF. -/
theorem test_script_P1 : holdsFromReset Config.source
    [.resetOk ⟨0x5A#8, 0xA5#8⟩ 0#8, .cmd 0x11#8 false, .expect fun s => s.os = .output1 ∧ s.outbuf = ⟨0x11#8, 0xAA#8⟩] :=
  ⟨trivial, trivial, ⟨rfl, rfl⟩, trivial⟩

/-- R4: N_OUTPUTS lines. -/
theorem test_nOutputs : outputLines.length = Config.nOutputs := by decide

/-- P7, edge 4: INBOUND of 0x33 after edge 3. -/
theorem test_sync_P7_edge4 :
    syncOut Config.source ⟨0#8, 0#8⟩ ⟨.running, .output1, some 0x11#8, ⟨0x11#8, 0xAA#8⟩, false⟩
      ⟨false, false, true, 0x33#8, false⟩ =
      ⟨true, false, 0xCC33#16, 0b100#3, 0b11#2⟩ := by decide
/-- P7, edge 3: an ignored byte and an outbound event on the same edge. -/
theorem test_sync_P7_edge3 :
    syncOut Config.source ⟨0#8, 0#8⟩ ⟨.running, .output1, some 0x11#8, ⟨0x11#8, 0xAA#8⟩, false⟩
      ⟨false, false, true, 0x99#8, true⟩ = ⟨true, true, 0xAA11#16, 0b001#3, 0b01#2⟩ := by decide
/-- P7, edge 0: reset released with both flags already set at the ports; no pulse, `[r0, r1]` shown. -/
theorem test_sync_P7_edge0 :
    syncOut Config.source ⟨0#8, 0#8⟩ ⟨.halted, .off, none, ⟨0x5A#8, 0xA5#8⟩, true⟩ ⟨false, true, true, 0x11#8, true⟩ =
      ⟨false, false, 0xA55A#16, 0b000#3, 0b00#2⟩ := by decide

/-- A command placed by `withFetchWord` runs as the first step after reset. -/
theorem test_withFetchWord_from_reset :
    (nextState (step (State.reset.withFetchWord 8 0x22))).map State.os = some .output2 := by decide

/-! ### Witnesses: the hypotheses of each statement can be met together -/

theorem witness_DecodeOfEncodeGivesTheCommand :
    Config.source.DistinctCommands ∧ (Instr.ign 0xFF#8).wellFormed Config.source = true ∧
      Instr.out3.wellFormed Config.source = true := by decide
theorem witness_EncodeOfDecodeGivesTheBytes : Config.source.decodeBytes [0xFF#8] = .ok (.ign 0xFF#8) := by rfl
theorem witness_RowOrderIsImmaterial :
    Config.source.DistinctCommands ∧ Config.source.opcodeRows.reverse.Perm Config.source.opcodeRows :=
  ⟨by decide, List.reverse_perm _⟩
theorem witness_TwoHundredFiftyTwoBytesAreIgnored : Config.source.DistinctCommands := by decide
theorem witness_DecodeMapsTheFourCommands :
    Config.source.DistinctCommands ∧ Config.source.recognised 0x32#8 = false ∧
      Config.source.decodeCommand 0x33#8 = some (.output3, 0xCC#8) := by decide
/-- For `OffSetsOffAndReports`: both its implications. -/
theorem witness_OffSetsOffAndReports :
    (∃ t, exec .off (pending 0x00#8) = .next t) ∧ Running (pending 0x00#8) ∧ (pending 0x00#8).inFlag = true ∧
      (pending 0x00#8).inbuf = 0x00#8 ∧ (pending 0x00#8).agenda = [] := ⟨⟨_, rfl⟩, by decide⟩
theorem witness_Out1SetsOutput1AndReports :
    (∃ t, exec .out1 (pending 0x11#8) = .next t) ∧ Running (pending 0x11#8) ∧ (pending 0x11#8).inFlag = true ∧
      (pending 0x11#8).inbuf = 0x11#8 ∧ (pending 0x11#8).agenda = [] := ⟨⟨_, rfl⟩, by decide⟩
theorem witness_Out2SetsOutput2AndReports :
    (∃ t, exec .out2 (pending 0x22#8) = .next t) ∧ Running (pending 0x22#8) ∧ (pending 0x22#8).inFlag = true ∧
      (pending 0x22#8).inbuf = 0x22#8 ∧ (pending 0x22#8).agenda = [] := ⟨⟨_, rfl⟩, by decide⟩
theorem witness_Out3SetsOutput3AndReports :
    (∃ t, exec .out3 (pending 0x33#8) = .next t) ∧ Running (pending 0x33#8) ∧ (pending 0x33#8).inFlag = true ∧
      (pending 0x33#8).inbuf = 0x33#8 ∧ (pending 0x33#8).agenda = [] := ⟨⟨_, rfl⟩, by decide⟩
theorem witness_IgnChangesNothingAndIsConsumed :
    (0xFF#8 ≠ 0x00#8 ∧ 0xFF#8 ≠ 0x11#8 ∧ 0xFF#8 ≠ 0x22#8 ∧ 0xFF#8 ≠ 0x33#8) ∧ decode 0x01#8 = .ign 0x01#8 ∧
      Running (pending 0x01#8) ∧ (pending 0x01#8).inFlag = true ∧
      decode (pending 0x01#8).inbuf = .ign (pending 0x01#8).inbuf ∧ (pending 0x01#8).agenda = [] := by decide
/-- Each of the four commands answers a next state, and the frame's clause on memory has addresses to speak of. -/
theorem witness_RecognisedCommandFrame :
    (∀ i ∈ [Instr.off, .out1, .out2, .out3], ∃ t, exec i (pending 0x00#8) = .next t) ∧
      ¬(SignalId.signalInput = .signalOutput ∧ Config.outOffset ≤ 0 ∧ 0 < Config.outOffset + Config.outLen) ∧
      ¬(SignalId.signalOutput = .signalOutput ∧ Config.outOffset ≤ 2 ∧ 2 < Config.outOffset + Config.outLen) :=
  ⟨fun i _ => by cases i <;> exact ⟨_, rfl⟩, by decide⟩
theorem witness_IgnFrame : exec (.ign 0xFF#8) (pending 0xFF#8) = .next (pending 0xFF#8) := rfl
theorem witness_CommandTwiceIsCommandOnce : Running (pending 0x33#8) := by decide
theorem witness_OutcomeDependsOnTheByteAlone :
    (pending 0x00#8).inbuf = (st .running .output3 (some 0x33#8) 0x33#8 0xCC#8 0x00#8 true true).inbuf ∧
      Config.source.recognised (pending 0x00#8).inbuf = true ∧
      Config.source.recognised (pending 0x01#8).inbuf = false := by decide
theorem witness_OutputLinesFollowOutputState :
    (pending 0x00#8).os = .off ∧ (st .running .output1 none 0#8 0#8 0#8 false false).os = .output1 ∧
      (st .running .output2 none 0#8 0#8 0#8 false false).os = .output2 ∧
      (st .running .output3 none 0#8 0#8 0#8 false false).os = .output3 ∧
      outActive .line3 (st .running .output3 none 0#8 0#8 0#8 false false) = true := by decide
theorem witness_StatusMapIsInjective : Config.source.status .off = Config.source.status .off := rfl
/-- The three cases of `OnlyTableRowsAreEverWritten`: kept, drawn by a reset, written. -/
theorem witness_OnlyTableRowsAreEverWritten :
    (∃ t, stepWith Config.source (pending 0x01#8) = .next t) ∧
      (∃ t, stepWith Config.source (pending 0x01#8 [.env (.reset false ⟨0x12#8, 0x34#8⟩ 0#8)]) = .next t) ∧
      ∃ t, stepWith Config.source (pending 0x33#8) = .next t := ⟨⟨_, rfl⟩, ⟨_, rfl⟩, ⟨_, rfl⟩⟩
/-- At both ends of both signals: the last byte alone, and the whole signal. -/
theorem witness_SignalReadsAndWrites :
    0 < 1 ∧ 1 + 1 ≤ SignalId.signalOutput.size ∧ 0 < 2 ∧ 0 + 2 ≤ SignalId.signalOutput.size ∧
      0 + 1 ≤ SignalId.signalInput.size ∧ [0xFF#8] ≠ [] ∧ 1 + [0xFF#8].length ≤ SignalId.signalOutput.size ∧
      0 + [0xFF#8, 0x00#8].length ≤ SignalId.signalOutput.size ∧
      (SignalId.signalInput ≠ .signalOutput ∨ 0 < 1 ∨ 1 + [0xFF#8].length ≤ 0) ∧
      (SignalId.signalOutput ≠ .signalOutput ∨ 0 < 1 ∨ 1 + [0xFF#8].length ≤ 0) ∧
      (SignalId.signalOutput ≠ .signalOutput ∨ 1 < 0 ∨ 0 + [0xFF#8].length ≤ 1) := by decide
/-- Requests of length 0 inside, at and beyond the size, requests that end beyond it, and one that does not. -/
theorem witness_AccessOutsideASignalIsRefused :
    SignalId.signalInput.size < 0 + 2 ∧ SignalId.signalOutput.size < 2 + 1 ∧
      SignalId.signalOutput.size < 1 + [0x00#8, 0x01#8].length ∧
      (∀ off ∈ [0, 1, 2, 3], (frameRead .signalOutput off 0 (pending 0#8)).toOption = none ∧
        nextState (frameWrite .signalOutput off [] (pending 0#8)) = none) ∧
      ¬(2 = 0 ∨ SignalId.signalOutput.size < 0 + 2) ∧
      (frameRead .signalOutput 2 1 (pending 0#8)).toOption = none := by decide
theorem witness_FlagCalls :
    flagTest .outFrame (pending 0#8) = false ∧
      flagTest .inFrame (st .running .off none 0#8 0#8 0#8 false true) = false := by decide
theorem witness_InboundRunsItsActionsInOrder :
    Config.source.decodeCommand 0x00#8 = some (.off, 0xDD#8) ∧ Config.source.decodeCommand 0xDD#8 = none := by decide
theorem witness_StepRunsTheDecodedCommand :
    inboundEnabled (pending 0x33#8) = true ∧ Config.source.decodeBytes [(pending 0x33#8).inbuf] = .ok .out3 ∧
      decodeTableWord 8 0x11 = some .out1 ∧ decodeTableWord 8 0xFF = some (.ign 0xFF#8) := ⟨by decide, rfl, by decide⟩
theorem witness_InboundStepEffect : Running (pending 0x22#8) ∧ (pending 0x22#8).inFlag = true := by decide
/-- V13: an outbound event before any command, no inbound event pending. -/
theorem witness_OutboundOnlyAcknowledges :
    Running (st .running .off none 0x5A#8 0xA5#8 0#8 false true) ∧
      (st .running .off none 0x5A#8 0xA5#8 0#8 false true).outFlag = true ∧
      (st .running .off none 0x5A#8 0xA5#8 0#8 false true).inFlag = false := by decide
/-- Halted with both flags set, and Running with both flags 0 and an empty agenda. -/
theorem witness_EnabledBlockSteps :
    Move.block ∈ [Move.inbound, .outbound, .block] ∧ (st .halted .off none 0#8 0#8 0#8 true true).run = .halted ∧
      (st .halted .off none 0#8 0#8 0#8 true true).agenda = [] ∧
      Quiescent (st .running .off none 0#8 0#8 0#8 false false) ∧
      (st .running .off none 0#8 0#8 0#8 false false).agenda = [] := by decide
theorem witness_InboundAndOutboundCommute :
    Running (st .running .output1 (some 0x11#8) 0x11#8 0xAA#8 0x33#8 true true) ∧
      (st .running .output1 (some 0x11#8) 0x11#8 0xAA#8 0x33#8 true true).inFlag = true ∧
      (st .running .output1 (some 0x11#8) 0x11#8 0xAA#8 0x33#8 true true).outFlag = true ∧
      Config.source.decodeCommand 0x33#8 = some (.output3, 0xCC#8) := by decide
theorem witness_HaltedBlockNeverActs :
    (st .halted .off none 0#8 0#8 0#8 true true [.inbound, .env .tx]).run = .halted ∧
      NoReset (st .halted .off none 0#8 0#8 0#8 true true [.inbound, .env .tx]).agenda ∧
      (st .halted .off none 0#8 0#8 0#8 true true [.inbound, .env .tx]).inFlag = true ∧
      (st .halted .off none 0#8 0#8 0#8 true true [.inbound, .env .tx]).outFlag = true ∧
      ∃ t, runWith Config.source 2 (st .halted .off none 0#8 0#8 0#8 true true [.inbound, .env .tx]) = .next t :=
  ⟨rfl, by intro k r i h; simp [st] at h, rfl, rfl, ⟨_, rfl⟩⟩
theorem witness_TransmitObservesThePayload : Running (pending 0x11#8) := by decide
theorem witness_EnvironmentCannotTouchTheBlock :
    (∀ k r i, EnvStep.deliver 0x00#8 ≠ .reset k r i) ∧ (pending 0#8).inFlag = true ∧
      (st .running .off none 0#8 0#8 0#8 true true).outFlag = true :=
  ⟨nofun, rfl, rfl⟩
theorem witness_OverrunLosesTheFirstCommand : Running (pending 0x11#8) := by decide
/-- A consistent state with a command recorded, and one without. -/
theorem witness_StepKeepsConsistency :
    Inv Config.source (st .running .output2 (some 0x22#8) 0x22#8 0xBB#8 0x33#8 true false) ∧
      (∃ t, stepWith Config.source (st .running .output2 (some 0x22#8) 0x22#8 0xBB#8 0x33#8 true false) = .next t) ∧
      Inv Config.source (st .halted .off none 0x5A#8 0xA5#8 0x33#8 true false) :=
  ⟨⟨⟨rfl, rfl⟩, fun h => by cases h⟩, ⟨_, rfl⟩, ⟨rfl, rfl⟩, fun _ => rfl⟩
/-- A Running state reached from a reset by DELIVER(0x33) and INBOUND has a last command; a Halted one has none. -/
theorem witness_ReachableStatesAreConsistent :
    (∃ s b, Reachable Config.source s ∧ s.lc = some b) ∧
      ∃ s, Reachable Config.source s ∧ s.lc = none ∧ s.run = .halted :=
  ⟨⟨_, _, .step (.step (.reset (pending 0#8 [.env (.deliver 0x33#8)]) true ⟨0#8, 0#8⟩ 0#8) rfl) rfl, rfl⟩,
    ⟨_, .reset (pending 0#8) false ⟨0#8, 0#8⟩ 0#8, rfl, rfl⟩⟩
theorem witness_NoPartialUpdate :
    Config.source.decodeCommand (pending 0x22#8).inbuf = some (.output2, 0xBB#8) ∧
      Config.source.decodeCommand (pending 0x21#8).inbuf = none ∧
      (nextState (stepWith Config.source (pending 0x22#8))).isSome = true := by decide
/-- Both flags cleared by their own steps and by a reset, and both set. -/
theorem witness_FlagsChangeOnlyByTheirOwnSteps :
    (nextState (stepWith Config.source (pending 0x22#8))).map State.inFlag = some false ∧
      (nextState (stepWith Config.source (pending 0x22#8 [.env (.reset true ⟨0#8, 0#8⟩ 0#8)]))).map State.inFlag =
        some false ∧
      (nextState (stepWith Config.source (st .running .off none 0#8 0#8 0#8 false true))).map State.outFlag =
        some false ∧
      (nextState (stepWith Config.source (st .running .off none 0#8 0#8 0#8 false false [.env (.deliver 7#8)]))).map
        State.inFlag = some true ∧
      (nextState (stepWith Config.source (st .running .off none 0#8 0#8 0#8 false false [.env .txrdy]))).map
        State.outFlag = some true := by decide
/-- RUN changed by a reset, INBUF by a delivery. -/
theorem witness_RunAndInbufAreTheEnvironments :
    (nextState (stepWith Config.source (pending 0x22#8 [.env (.reset false ⟨0#8, 0#8⟩ 0#8)]))).map State.run =
        some .halted ∧
      (nextState (stepWith Config.source (pending 0x22#8 [.env (.deliver 0x33#8)]))).map State.inbuf =
        some 0x33#8 := by decide
theorem witness_UndeliveredInbufIsNeverRead :
    (st .running .off none 0#8 0#8 0#8 false true [.env (.deliver 0x11#8)]).inFlag = false ∧
      (nextState (runWith Config.source 1 (st .running .off none 0#8 0#8 0#8 false true [.env (.deliver 0x11#8)]))).map
        State.inFlag = some true := by decide
/-- Each of the five cases: a move of each kind at the head, and the empty agenda. -/
theorem witness_EveryMachineStepIsASpecStep :
    (∀ m ∈ [Move.env (.deliver 0x33#8), .inbound, .outbound, .block],
      ∃ t, stepWith Config.source (pending 0x22#8 [m]) = .next t) ∧
    (∃ t, stepWith Config.source (st .running .off none 0#8 0#8 0#8 false true [.outbound]) = .next t) ∧
    ∃ t, stepWith Config.source (pending 0x22#8) = .next t :=
  ⟨by simp only [List.forall_mem_cons]; exact ⟨⟨_, rfl⟩, ⟨_, rfl⟩, ⟨_, rfl⟩, ⟨_, rfl⟩, nofun⟩, ⟨_, rfl⟩, ⟨_, rfl⟩⟩
/-- DELIVER(0x33), TXRDY, then OUTBOUND before INBOUND: the order the empty agenda would not take. -/
theorem witness_EverySpecRunIsAMachineRun :
    ∃ t, SpecRun Config.source (st .running .off none 0#8 0#8 0#8 false false)
      [.env (.deliver 0x33#8), .env .txrdy, .outbound, .inbound] t :=
  ⟨_, .cons (.deliver _ _) (.cons (.txrdy _) (.cons (.outbound _ rfl rfl)
    (.cons (.inboundAccept _ .output3 0xCC#8 rfl rfl rfl) (.nil _))))⟩

/-- The state after the one step of the witness run below. -/
def handled : State := st .running .off none 0x5A#8 0xA5#8 0x99#8 false false

/-- A weakly fair run in which IN_FLAG is set at the start, and one in which OUT_FLAG is. -/
theorem witness_PendingEventsAreEventuallyHandled :
    (FairRun Config.source (fun n => if n = 0 then pending 0x99#8 else handled)
        (fun n => if n = 0 then some .inbound else none) ∧
      Running (pending 0x99#8) ∧ (pending 0x99#8).inFlag = true) ∧
    FairRun Config.source
      (fun n => if n = 0 then st .running .off none 0x5A#8 0xA5#8 0x99#8 false true else handled)
      (fun n => if n = 0 then some .outbound else none) ∧
    (st .running .off none 0x5A#8 0xA5#8 0x99#8 false true).outFlag = true := by
  have idle : ∀ n, ¬∀ k, n ≤ k → inboundEnabled (if k = 0 then pending 0x99#8 else handled) = true :=
    fun n h => by simpa [handled, st, inboundEnabled, flagTest] using h (n + 1) (by omega)
  refine ⟨⟨⟨fun n m h => ?_, fun n h => ?_, fun n h => absurd h (idle n), fun n h => ?_⟩, rfl, rfl⟩,
    ⟨fun n m h => ?_, fun n h => ?_, fun n h => ?_, fun n h => ?_⟩, rfl⟩
  · rcases n with _ | n
    · simp only [if_true, Option.some.injEq] at h
      exact h ▸ .inboundIgnore _ rfl rfl rfl
    · simp at h
  · rcases n with _ | n
    · simp at h
    · rfl
  · exact absurd (h (n + 1) (by omega)) (by simp [handled, st, outboundEnabled, flagTest])
  · rcases n with _ | n
    · simp only [if_true, Option.some.injEq] at h
      exact h ▸ .outbound _ rfl rfl
    · simp at h
  · rcases n with _ | n
    · simp at h
    · rfl
  · exact absurd (h (n + 1) (by omega)) (by simp [handled, st, inboundEnabled, flagTest])
  · exact absurd (h (n + 1) (by omega)) (by simp [handled, st, outboundEnabled, flagTest])
theorem witness_WaitingScriptLineSettles :
    Running (pending 0x11#8) ∧ (st .halted .off none 0#8 0#8 0#8 false false).run = .halted := by decide
/-- A later edge, the first edge of a reset, and its release. -/
theorem witness_ClockEdgeIsBothBlockSteps :
    (⟨false, false, true, 0x33#8, true⟩ : SyncIn).rst = false ∧
      (⟨.running, .output1, some 0x11#8, ⟨0x11#8, 0xAA#8⟩, false⟩ : SyncRegs).inReset = false ∧
      (⟨true, false, true, 0x33#8, true⟩ : SyncIn).rst = true ∧ (⟨false, true, false, 0#8, false⟩ : SyncIn).rst = false := by
  decide
/-- An edge with `rst` asserted, at its start and going on, and the edge of the release. -/
theorem witness_ResetEdgesLoadAndNeverPulse :
    (⟨true, true, true, 0x33#8, true⟩ : SyncIn).rst = true ∧
      (⟨.halted, .off, none, ⟨0x5A#8, 0xA5#8⟩, true⟩ : SyncRegs).inReset = true ∧
      (⟨false, true, true, 0x33#8, true⟩ : SyncIn).rst = false := by decide
theorem witness_PortsShowTheRegisters : osCode .output3 = osCode .output3 := rfl

end Sys2Proof.Tests
end

section
/-! The flag calls (R46): what a test returns, what a clear writes, and when a clear changes nothing. -/

namespace Sys2Proof.Machine

@[simp] theorem flagTest_inFrame (s : State) : flagTest .inFrame s = s.inFlag := rfl
@[simp] theorem flagTest_outFrame (s : State) : flagTest .outFrame s = s.outFlag := rfl

theorem flagClear_inFrame (s : State) : flagClear .inFrame s = { s with inFlag := false } := rfl
theorem flagClear_outFrame (s : State) : flagClear .outFrame s = { s with outFlag := false } := rfl

/-- The clear writes back the 0 that the flag already holds. -/
theorem flagClear_eq_self_of_flagTest_eq_false {f : FrameId} {s : State} (h : flagTest f s = false) :
    flagClear f s = s := by
  cases f with
  | inFrame => rw [flagClear_inFrame, ← h, flagTest_inFrame]
  | outFrame => rw [flagClear_outFrame, ← h, flagTest_outFrame]

/-- Settles O24: the equations of the two calls, and the clear of a flag that is 0. -/
theorem flagCalls : Obligations.FlagCalls := fun s =>
  ⟨flagTest_inFrame s, flagTest_outFrame s, flagClear_inFrame s, flagClear_outFrame s,
    fun _ => flagClear_eq_self_of_flagTest_eq_false⟩

end Sys2Proof.Machine
end

section
/-! The status payload in SignalOutput (R33, R91): where its two bytes sit, and what storing and reading it as a whole
does. -/

namespace Sys2Proof.Machine

@[simp] theorem readByte_signalOutput_zero (s : State) : readByte .signalOutput 0 s = some s.outbuf.echo := rfl
@[simp] theorem readByte_signalOutput_one (s : State) : readByte .signalOutput 1 s = some s.outbuf.status := rfl

@[simp] theorem encodePayload_length (l c : Byte) : (encodePayload l c).length = Config.outLen := rfl

/-- The request of R32 for the payload stays inside SignalOutput. -/
theorem payload_inRange : SignalId.signalOutput.InRange Config.outOffset Config.outLen := by decide

/-- Both bytes of OUTBUF are overwritten, so nothing of the payload before is left. -/
theorem frameWrite_encodePayload (l c : Byte) (s : State) :
    frameWrite .signalOutput Config.outOffset (encodePayload l c) s = .next { s with outbuf := ⟨l, c⟩ } :=
  (frameWrite_eq_next_iff ..).mpr ⟨by rw [encodePayload_length]; exact payload_inRange, rfl⟩

/-- The read of TX (R109) returns all of OUTBUF, the echo first. -/
theorem frameRead_payload (s : State) :
    frameRead .signalOutput Config.outOffset Config.outLen s = .ok (encodePayload s.outbuf.echo s.outbuf.status) :=
  (frameRead_eq_ok_iff ..).mpr ⟨payload_inRange, rfl⟩

/-- Settles O20: the state after the write, then its two bytes and the whole payload read from it. -/
theorem payloadIsEchoThenStatus : Obligations.PayloadIsEchoThenStatus := fun l c s =>
  ⟨rfl, _, frameWrite_encodePayload l c s, readByte_signalOutput_zero _, readByte_signalOutput_one _,
    frameRead_payload _⟩

end Sys2Proof.Machine
end

section
/-! One move at the head of the agenda (R42): the step it makes, for an INBOUND that is enabled and for each step of the
environment. -/

namespace Sys2Proof.Machine

@[simp] theorem envStep_deliver (b : Byte) (s : State) : envStep (.deliver b) s = deliver b s := rfl
@[simp] theorem envStep_txrdy (s : State) : envStep .txrdy s = txReady s := rfl
@[simp] theorem envStep_tx (s : State) : envStep .tx s = transmit s := rfl
@[simp] theorem envStep_reset (k : Bool) (r : Payload) (i : Byte) (s : State) :
    envStep (.reset k r i) s = resetTo k r i s := rfl

/-- The environment's move is made in every state: no flag and no value of RUN is asked for. -/
theorem stepWith_env (cfg : Config) (e : EnvStep) (s : State) (rest : List Move) :
    stepWith cfg { s with agenda := .env e :: rest } = .next (envStep e { s with agenda := rest }) := rfl

/-- The agenda is no part of what enables INBOUND, so the state with the move taken off it is asked. -/
theorem stepWith_inbound_of_enabled {cfg : Config} {s : State} {rest : List Move}
    (h : inboundEnabled { s with agenda := rest } = true) :
    stepWith cfg { s with agenda := .inbound :: rest } = .next (inboundState cfg { s with agenda := rest }) := by
  have hstep : stepWith cfg { s with agenda := .inbound :: rest } = inboundWith cfg { s with agenda := rest } :=
    if_pos h
  rw [hstep, inboundWith_eq]

end Sys2Proof.Machine
end

section
/-! The INBOUND step from a Running state with a command pending (R101). -/

namespace Sys2Proof.Machine

/-- Settles O28: INBOUND is enabled, so the step answers `inboundState`, whose two cases are those of the decoder's
answer on the byte in INBUF. -/
theorem inboundStepEffect : Obligations.InboundStepEffect := by
  intro cfg s rest hrun hflag
  have henabled : inboundEnabled { s with agenda := rest } = true := (inboundEnabled_iff _).mpr ⟨hrun, hflag⟩
  rw [stepWith_inbound_of_enabled henabled]
  obtain ⟨v, c, hdecode, hstate⟩ | ⟨hdecode, hstate⟩ := inboundState_cases cfg { s with agenda := rest }
  · rw [hstate, show cfg.decodeCommand s.inbuf = some (v, c) from hdecode]
  · rw [hstate, show cfg.decodeCommand s.inbuf = none from hdecode]

end Sys2Proof.Machine
end

section
/-! What the environment's steps other than reset leave alone (R108, R110). -/

namespace Sys2Proof.Machine

/-- TXRDY as one record update. -/
theorem txReady_eq (s : State) : txReady s = { s with outFlag := true } := rfl

/-- Settles O34: the step is the environment's TXRDY, which sets OUT_FLAG. -/
theorem txReadyStepEffect : Obligations.TxReadyStepEffect := by
  intro cfg s rest
  rw [stepWith_env, envStep_txrdy, txReady_eq]

/-- DELIVER, TXRDY and TX write no register of the block and lower no flag; reset alone does either. -/
theorem envStep_keeps_block {e : EnvStep} (he : ∀ k r i, e ≠ .reset k r i) (s : State) :
    (envStep e s).os = s.os ∧ (envStep e s).lc = s.lc ∧ (envStep e s).outbuf = s.outbuf ∧
      (envStep e s).run = s.run ∧ (s.inFlag = true → (envStep e s).inFlag = true) ∧
      (s.outFlag = true → (envStep e s).outFlag = true) := by
  cases e with
  | deliver b => simp
  | txrdy => simp
  | tx => simp
  | reset k r i => exact absurd rfl (he k r i)

/-- Settles O36: the step is the environment's, which keeps what belongs to the block. -/
theorem environmentCannotTouchTheBlock : Obligations.EnvironmentCannotTouchTheBlock :=
  fun cfg s e rest he => ⟨_, stepWith_env cfg e s rest, envStep_keeps_block he { s with agenda := rest }⟩

end Sys2Proof.Machine
end

section
/-! The decoder (R53 to R56, R65): what it answers on a recognised byte and on any other, that it inverts the encoder,
and that the order of the table's rows does not matter. -/

namespace Sys2Proof

/-! ### Recognised bytes -/

/-- One of the four command bytes. -/
theorem recognised_iff (cfg : Config) (b : Byte) :
    cfg.recognised b = true ↔ b = cfg.cmdOff ∨ b = cfg.cmdOut1 ∨ b = cfg.cmdOut2 ∨ b = cfg.cmdOut3 := by
  simp [Config.recognised, or_assoc]

/-- The default row of R54: the mapping of R65 has no entry exactly for the unrecognised bytes. -/
theorem decodeCommand_eq_none_iff (cfg : Config) (b : Byte) :
    cfg.decodeCommand b = none ↔ cfg.recognised b = false := by
  rw [← decodeCommand_isSome, Option.isSome_eq_false_iff, Option.isNone_iff_eq_none]

/-- A byte with an entry in the mapping is recognised. -/
theorem recognised_of_decodeCommand {cfg : Config} {b c : Byte} {v : OutputState}
    (h : cfg.decodeCommand b = some (v, c)) : cfg.recognised b = true := by
  rw [← decodeCommand_isSome, h, Option.isSome_some]

/-- A recognised byte has an entry in the mapping. -/
theorem decodeCommand_of_recognised {cfg : Config} {b : Byte} (h : cfg.recognised b = true) :
    ∃ v c, cfg.decodeCommand b = some (v, c) := by
  rw [← decodeCommand_isSome, Option.isSome_iff_exists] at h
  obtain ⟨⟨v, c⟩, hdecode⟩ := h
  exact ⟨v, c, hdecode⟩

/-- The status code the decoder gives is that of the state it gives (R90). -/
theorem decodeCommand_status {cfg : Config} {b c : Byte} {v : OutputState}
    (h : cfg.decodeCommand b = some (v, c)) : c = cfg.status v := by
  obtain ⟨-, rfl, rfl⟩ | ⟨-, rfl, rfl⟩ | ⟨-, rfl, rfl⟩ | ⟨-, rfl, rfl⟩ := decodeCommand_some_cases h
  · exact (status_off cfg).symm
  · exact (status_output1 cfg).symm
  · exact (status_output2 cfg).symm
  · exact (status_output3 cfg).symm

/-! ### The table decoder -/

/-- The five answers of the table decoder: the command of a row on its own byte, else IGN with the byte. -/
theorem decodeInstr_cases (cfg : Config) (b : Byte) :
    (b = cfg.cmdOff ∧ cfg.decodeInstr b = .off) ∨ (b = cfg.cmdOut1 ∧ cfg.decodeInstr b = .out1) ∨
      (b = cfg.cmdOut2 ∧ cfg.decodeInstr b = .out2) ∨ (b = cfg.cmdOut3 ∧ cfg.decodeInstr b = .out3) ∨
      (cfg.recognised b = false ∧ cfg.decodeInstr b = .ign b) := by
  rw [decodeInstr_eq]
  by_cases hoff : b = cfg.cmdOff
  · simp [hoff]
  by_cases hout1 : b = cfg.cmdOut1
  · simp_all
  by_cases hout2 : b = cfg.cmdOut2
  · simp_all
  by_cases hout3 : b = cfg.cmdOut3
  · simp_all
  simp [Config.recognised, hoff, hout1, hout2, hout3]

/-- IGN is the answer exactly on the unrecognised bytes. -/
theorem decodeInstr_eq_ign_iff (cfg : Config) (b : Byte) :
    cfg.decodeInstr b = .ign b ↔ cfg.recognised b = false := by
  obtain ⟨hb, hi⟩ | ⟨hb, hi⟩ | ⟨hb, hi⟩ | ⟨hb, hi⟩ | ⟨hb, hi⟩ := decodeInstr_cases cfg b
  case inr.inr.inr.inr => simp [hb, hi]
  all_goals
    rw [hi]
    simp [Config.recognised, hb]

/-- The columns of R53 for the command the table names are the mapping of R65. -/
theorem transition_decodeInstr (cfg : Config) (b : Byte) :
    (cfg.decodeInstr b).transition cfg = cfg.decodeCommand b := by
  rw [decodeInstr_eq, Config.decodeCommand]
  simp only [apply_ite (Instr.transition cfg)]
  rfl

theorem wellFormed_decodeInstr (cfg : Config) (b : Byte) : (cfg.decodeInstr b).wellFormed cfg = true := by
  obtain ⟨-, hi⟩ | ⟨-, hi⟩ | ⟨-, hi⟩ | ⟨-, hi⟩ | ⟨hb, hi⟩ := decodeInstr_cases cfg b
  case inr.inr.inr.inr => rw [hi, Instr.wellFormed, hb, Bool.not_false]
  all_goals rw [hi, Instr.wellFormed]

theorem encode_decodeInstr (cfg : Config) (b : Byte) : cfg.encode (cfg.decodeInstr b) = [b] := by
  obtain ⟨hb, hi⟩ | ⟨hb, hi⟩ | ⟨hb, hi⟩ | ⟨hb, hi⟩ | ⟨-, hi⟩ := decodeInstr_cases cfg b
  case inr.inr.inr.inr => rw [hi, Config.encode]
  all_goals rw [hi, Config.encode, ← hb]

/-- One byte is one command (R56), and nothing else is accepted. -/
theorem decodeBytes_eq_ok_iff (cfg : Config) (bytes : List Byte) (i : Instr) :
    cfg.decodeBytes bytes = .ok i ↔ ∃ b, bytes = [b] ∧ cfg.decodeInstr b = i := by
  cases bytes with
  | nil => simp [Config.decodeBytes]
  | cons b rest =>
    cases rest with
    | nil => simp [Config.decodeBytes]
    | cons => simp [Config.decodeBytes]

/-- Distinct command bytes keep an earlier row from taking the byte of a later one. -/
theorem decodeBytes_encode {cfg : Config} (hd : cfg.DistinctCommands) {i : Instr} (hi : i.wellFormed cfg = true) :
    cfg.decodeBytes (cfg.encode i) = .ok i := by
  obtain ⟨h01, h02, h03, h12, h13, h23⟩ := hd
  rw [decodeBytes_eq_ok_iff]
  cases i with
  | off => exact ⟨_, rfl, by simp [decodeInstr_eq]⟩
  | out1 => exact ⟨_, rfl, by simp [decodeInstr_eq, h01.symm]⟩
  | out2 => exact ⟨_, rfl, by simp [decodeInstr_eq, h02.symm, h12.symm]⟩
  | out3 => exact ⟨_, rfl, by simp [decodeInstr_eq, h03.symm, h13.symm, h23.symm]⟩
  | ign b => exact ⟨b, rfl, (decodeInstr_eq_ign_iff cfg b).mpr (by simpa [Instr.wellFormed] using hi)⟩

/-- Settles O2: the encoding is one byte, and the row of the command is the one that takes it. -/
theorem decodeOfEncodeGivesTheCommand : Obligations.DecodeOfEncodeGivesTheCommand :=
  fun _ hd _ hi => decodeBytes_encode hd hi

/-- Settles O3: only a single byte is accepted, and the table's answer on it encodes to it again. -/
theorem encodeOfDecodeGivesTheBytes : Obligations.EncodeOfDecodeGivesTheBytes := by
  intro cfg bytes i h
  obtain ⟨b, rfl, rfl⟩ := (decodeBytes_eq_ok_iff cfg bytes i).mp h
  exact ⟨wellFormed_decodeInstr cfg b, encode_decodeInstr cfg b, rfl⟩

/-- Settles O5: the columns of the named command, and the default row on the unrecognised bytes. -/
theorem tableDecoderAgreesWithTheMapping : Obligations.TableDecoderAgreesWithTheMapping := fun cfg b =>
  ⟨transition_decodeInstr cfg b, (decodeCommand_eq_none_iff cfg b).trans (decodeInstr_eq_ign_iff cfg b).symm⟩

/-- Settles O7: the mapping is read off the row of each command byte, found by its encoding. -/
theorem decodeMapsTheFourCommands : Obligations.DecodeMapsTheFourCommands := by
  intro cfg hd
  have row {b : Byte} {i : Instr} (hi : i.wellFormed cfg = true) (hb : cfg.encode i = [b]) :
      cfg.decodeCommand b = i.transition cfg := by
    have hdecode := decodeBytes_encode hd hi
    rw [hb] at hdecode
    obtain ⟨b', hbytes, rfl⟩ := (decodeBytes_eq_ok_iff cfg [b] i).mp hdecode
    rw [List.singleton_inj.mp hbytes, transition_decodeInstr]
  exact ⟨row (i := .off) rfl rfl, row (i := .out1) rfl rfl, row (i := .out2) rfl rfl, row (i := .out3) rfl rfl,
    fun b => (decodeCommand_eq_none_iff cfg b).mpr, fun _ _ _ => decodeCommand_status⟩

/-- Settles O1: the words of the table and the two bytes of no row, evaluated. -/
theorem decoderReadsTheTableBytes : Obligations.DecoderReadsTheTableBytes := by
  unfold Obligations.DecoderReadsTheTableBytes
  decide

/-- Settles O19: the four codes, and the sixteen pairs of states. -/
theorem statusMapIsInjective : Obligations.StatusMapIsInjective := by
  refine ⟨rfl, rfl, rfl, rfl, fun u v => ?_⟩
  cases u <;> cases v <;> decide

/-! ### The order of the rows -/

/-- Whichever of two rows is tested first, a byte both hit gets the same command. -/
def RowsAgreeOn (b : Byte) (r r' : OpcodeRow) : Prop := r.hits b = true → r'.hits b = true → r.instr = r'.instr

theorem rowsAgreeOn_symm {b : Byte} {r r' : OpcodeRow} (h : RowsAgreeOn b r r') : RowsAgreeOn b r' r :=
  fun hr' hr => (h hr hr').symm

/-- Swapping two neighbouring rows that agree changes nothing, and any reordering is made of such swaps. -/
theorem lookupRows_perm {b : Byte} {rows rows' : List OpcodeRow} (hperm : rows.Perm rows')
    (hagree : rows.Pairwise (RowsAgreeOn b)) : lookupRows b rows = lookupRows b rows' := by
  induction hperm with
  | nil => rfl
  | cons r _ ih => simp only [lookupRows, ih hagree.of_cons]
  | swap r r' rest =>
    have hrr' : RowsAgreeOn b r' r := List.rel_of_pairwise_cons hagree (List.mem_cons_self ..)
    simp only [lookupRows]
    split
    · split
      · exact hrr' ‹_› ‹_›
      · rfl
    · rfl
  | trans hp _ ih₁ ih₂ => exact (ih₁ hagree).trans (ih₂ ((hp.pairwise_iff rowsAgreeOn_symm).mp hagree))

/-- With distinct command bytes no byte hits two rows. -/
theorem opcodeRows_agree {cfg : Config} (hd : cfg.DistinctCommands) (b : Byte) :
    cfg.opcodeRows.Pairwise (RowsAgreeOn b) := by
  have apart {v v' : Byte} {i i' : Instr} (hne : v ≠ v') : RowsAgreeOn b ⟨0xFF#8, v, i⟩ ⟨0xFF#8, v', i'⟩ := by
    intro hr hr'
    rw [hits_fullMask, beq_iff_eq] at hr hr'
    exact absurd (hr.symm.trans hr') hne
  obtain ⟨h01, h02, h03, h12, h13, h23⟩ := hd
  simp only [Config.opcodeRows, List.pairwise_cons, List.forall_mem_cons, List.not_mem_nil, false_imp_iff,
    implies_true, List.Pairwise.nil, and_true]
  exact ⟨⟨apart h01, apart h02, apart h03⟩, ⟨apart h12, apart h13⟩, apart h23⟩

/-- Settles O4: a permutation of rows of which a byte hits at most one. -/
theorem rowOrderIsImmaterial : Obligations.RowOrderIsImmaterial := fun _ hd _ hperm b =>
  lookupRows_perm hperm ((hperm.symm.pairwise_iff rowsAgreeOn_symm).mp (opcodeRows_agree hd b))

/-! ### The ignored bytes, counted -/

/-- All the byte values, each once. -/
def allBytes : List Byte := (List.range 256).map (BitVec.ofNat 8)

theorem mem_allBytes (b : Byte) : b ∈ allBytes :=
  List.mem_map.mpr ⟨b.toNat, List.mem_range.mpr b.isLt, by simp⟩

theorem allBytes_nodup : allBytes.Nodup := by
  refine List.Nodup.map_on (fun m hm n hn h => ?_) List.nodup_range
  have hm' : m < 256 := List.mem_range.mp hm
  have hn' : n < 256 := List.mem_range.mp hn
  simpa [Nat.mod_eq_of_lt hm', Nat.mod_eq_of_lt hn'] using congrArg BitVec.toNat h

/-- The recognised bytes among all bytes are the four command bytes, in some order. -/
theorem countP_recognised {cfg : Config} (hd : cfg.DistinctCommands) : allBytes.countP cfg.recognised = 4 := by
  have hcommands : [cfg.cmdOff, cfg.cmdOut1, cfg.cmdOut2, cfg.cmdOut3].Nodup := by
    obtain ⟨h01, h02, h03, h12, h13, h23⟩ := hd
    simp [h01, h02, h03, h12, h13, h23]
  have hperm : (allBytes.filter cfg.recognised).Perm [cfg.cmdOff, cfg.cmdOut1, cfg.cmdOut2, cfg.cmdOut3] :=
    (List.perm_ext_iff_of_nodup (allBytes_nodup.filter _) hcommands).mpr fun b => by
      simp [List.mem_filter, mem_allBytes, recognised_iff]
  rw [List.countP_eq_length_filter, hperm.length_eq]
  rfl

/-- 252 of the 256 bytes are not recognised; the statements count over the numbers below 256. -/
theorem countP_unrecognised {cfg : Config} (hd : cfg.DistinctCommands) :
    (List.range 256).countP (fun n => !cfg.recognised (BitVec.ofNat 8 n)) = 252 := by
  have hmap : (List.range 256).countP (fun n => !cfg.recognised (BitVec.ofNat 8 n)) =
      allBytes.countP fun b => !cfg.recognised b := by rw [allBytes, List.countP_map]; rfl
  have hsplit := List.length_eq_countP_add_countP cfg.recognised (l := allBytes)
  rw [countP_recognised hd, show allBytes.length = 256 by rw [allBytes, List.length_map, List.length_range]] at hsplit
  simp only [Bool.not_eq_true, Bool.decide_eq_false] at hsplit
  omega

/-- Settles O6: the bytes without an entry are the unrecognised ones, which are counted. -/
theorem twoHundredFiftyTwoBytesAreIgnored : Obligations.TwoHundredFiftyTwoBytesAreIgnored := by
  intro cfg hd
  have hnone (b : Byte) : (cfg.decodeCommand b).isNone = !cfg.recognised b := by
    rw [← decodeCommand_isSome, Option.not_isSome]
  simp only [hnone]
  exact countP_unrecognised hd

end Sys2Proof
end

section
/-! The signal buffers (R31, R34): byte by byte, what a read returns and what a store leaves. -/

namespace Sys2Proof.Machine

/-- A store is an overlay of the signal's bytes, offset by offset. -/
theorem signalBytes_storeBytes (sig : SignalId) (off : Nat) (v : List Byte) (s : State) :
    signalBytes sig (storeBytes sig off v s) = (signalBytes sig s).mapIdx (overlay off v) := by
  cases sig <;> rfl

theorem signalBytes_storeBytes_of_ne {sig sig' : SignalId} (h : sig' ≠ sig) (off : Nat) (v : List Byte) (s : State) :
    signalBytes sig' (storeBytes sig off v s) = signalBytes sig' s := by
  cases sig with
  | signalInput => cases sig' with
    | signalInput => exact absurd rfl h
    | signalOutput => rfl
  | signalOutput => cases sig' with
    | signalInput => rfl
    | signalOutput => exact absurd rfl h

theorem storeBytes_frame (sig : SignalId) (off : Nat) (v : List Byte) (s : State) :
    { storeBytes sig off v s with inbuf := s.inbuf, outbuf := s.outbuf } = s := by
  cases sig <;> rfl

/-- Inside the bytes stored. -/
theorem overlay_add {off i : Nat} {v : List Byte} (hi : i < v.length) (old : Byte) :
    overlay off v (off + i) old = v[i] := by
  simp [overlay, hi]

/-- Outside the bytes stored. -/
theorem overlay_outside {off k : Nat} {v : List Byte} (hk : k < off ∨ off + v.length ≤ k) (old : Byte) :
    overlay off v k old = old := by
  unfold overlay
  split
  · rw [List.getElem?_eq_none (by omega), Option.getD_none]
  · rfl

theorem readByte_storeBytes_stored {sig : SignalId} {off i : Nat} {v : List Byte} (hi : i < v.length)
    (hrange : off + v.length ≤ sig.size) (s : State) :
    readByte sig (off + i) (storeBytes sig off v s) = v[i]? := by
  have hlt : off + i < (signalBytes sig s).length := by rw [signalBytes_length]; omega
  rw [readByte, signalBytes_storeBytes, List.getElem?_mapIdx, List.getElem?_eq_getElem hlt,
    List.getElem?_eq_getElem hi, Option.map_some, overlay_add hi]

theorem readByte_storeBytes_outside {sig sig' : SignalId} {off k : Nat} {v : List Byte}
    (h : sig' ≠ sig ∨ k < off ∨ off + v.length ≤ k) (s : State) :
    readByte sig' k (storeBytes sig off v s) = readByte sig' k s := by
  by_cases hsig : sig' = sig
  · subst hsig
    have hk := h.resolve_left (not_not_intro rfl)
    rw [readByte, signalBytes_storeBytes, List.getElem?_mapIdx, funext (overlay_outside hk), Option.map_id']
    rfl
  · rw [readByte, signalBytes_storeBytes_of_ne hsig]
    rfl

/-- A read in range answers the bytes at its offsets, in ascending order. -/
theorem frameRead_of_inRange {sig : SignalId} {off n : Nat} (h : sig.InRange off n) (s : State) :
    ∃ bytes, frameRead sig off n s = .ok bytes ∧ bytes.length = n ∧
      ∀ i < n, bytes[i]? = readByte sig (off + i) s := by
  refine ⟨_, (frameRead_eq_ok_iff ..).mpr ⟨h, rfl⟩, ?_, fun i hi => ?_⟩
  · rw [List.length_take, List.length_drop, signalBytes_length]
    omega
  · rw [List.getElem?_take_of_lt hi, List.getElem?_drop, readByte]

/-- A read of the offsets just stored gives the stored bytes back. -/
theorem frameRead_storeBytes {sig : SignalId} {off : Nat} {v : List Byte} (h : sig.InRange off v.length) (s : State) :
    frameRead sig off v.length (storeBytes sig off v s) = .ok v := by
  obtain ⟨bytes, hread, hlength, hbytes⟩ := frameRead_of_inRange h (storeBytes sig off v s)
  have hv : bytes = v := List.ext_getElem? fun i => by
    by_cases hi : i < v.length
    · rw [hbytes i hi, readByte_storeBytes_stored hi h.2]
    · rw [List.getElem?_eq_none (by omega), List.getElem?_eq_none (by omega)]
  rw [hread, hv]

/-- Settles O22: the read's bytes, and after a write the bytes stored, the bytes around them and the registers. -/
theorem signalReadsAndWrites : Obligations.SignalReadsAndWrites := by
  refine ⟨fun sig off n s hn hrange => frameRead_of_inRange ⟨hn, hrange⟩ s, fun sig off v s hv hrange => ?_⟩
  have hin : sig.InRange off v.length := ⟨List.length_pos_iff.mpr hv, hrange⟩
  exact ⟨_, (frameWrite_eq_next_iff ..).mpr ⟨hin, rfl⟩, frameRead_storeBytes hin s,
    fun i hi => readByte_storeBytes_stored hi hrange s, fun sig' k hk => readByte_storeBytes_outside hk s,
    storeBytes_frame sig off v s⟩

/-- A request is out of range when it is empty or ends beyond the signal. -/
theorem not_inRange_iff (sig : SignalId) (off n : Nat) : ¬sig.InRange off n ↔ n = 0 ∨ sig.size < off + n := by
  unfold SignalId.InRange
  omega

theorem frameRead_eq_refused_iff (sig : SignalId) (off n : Nat) (s : State) :
    frameRead sig off n s = .error .signalAccess ↔ ¬sig.InRange off n := by
  unfold frameRead
  split <;> simp_all

theorem frameWrite_eq_refused_iff (sig : SignalId) (off : Nat) (v : List Byte) (s : State) :
    frameWrite sig off v s = .refused .signalAccess ↔ ¬sig.InRange off v.length := by
  unfold frameWrite
  split <;> simp_all

/-- Settles O23: both primitives refuse exactly the requests out of range. -/
theorem accessOutsideASignalIsRefused : Obligations.AccessOutsideASignalIsRefused := fun sig off s =>
  ⟨fun n => by rw [frameRead_eq_refused_iff, not_inRange_iff],
    fun v => by rw [frameWrite_eq_refused_iff, not_inRange_iff, List.length_eq_zero_iff]⟩

end Sys2Proof.Machine
end

section
/-! The output state and its lines (R80 to R83). -/

namespace Sys2Proof.Machine

/-- R82 with the state given. -/
theorem outActive_of_os {s : State} {v : OutputState} (h : s.os = v) (k : OutputLine) :
    outActive k s = (v == k.variant) := by rw [outActive, h]

/-- All three lines, for the state given. -/
theorem outActive_lines_of_os {s : State} {v : OutputState} (h : s.os = v) :
    outActive .line1 s = (v == .output1) ∧ outActive .line2 s = (v == .output2) ∧
      outActive .line3 s = (v == .output3) :=
  ⟨outActive_of_os h .line1, outActive_of_os h .line2, outActive_of_os h .line3⟩

/-- Off is the variant of no line (decision D6). -/
theorem outActive_of_os_off {s : State} (h : s.os = .off) (k : OutputLine) : outActive k s = false := by
  rw [outActive_of_os h]
  cases k <;> rfl

theorem outActive_iff (k : OutputLine) (s : State) : outActive k s = true ↔ s.os = k.variant := by
  rw [outActive, beq_iff_eq]

theorem variant_injective {j k : OutputLine} (h : j.variant = k.variant) : j = k := by
  revert h
  cases j <;> cases k <;> decide

/-- Settles O17: `set` is one record update, so `current` and the lines see its argument. -/
theorem setWritesOutputStateAlone : Obligations.SetWritesOutputStateAlone := fun v s =>
  ⟨rfl, rfl, rfl, outActive_of_os (setOutput_os s v)⟩

/-- Settles O18: a line is active exactly when OS is its variant, and each variant but Off is that of one line. -/
theorem outputLinesFollowOutputState : Obligations.OutputLinesFollowOutputState := by
  intro s
  refine ⟨outActive_of_os_off, outActive_lines_of_os, outActive_lines_of_os, outActive_lines_of_os,
    fun j k hj hk => ?_, fun hne => ?_⟩
  · exact variant_injective (((outActive_iff j s).mp hj).symm.trans ((outActive_iff k s).mp hk))
  · simp only [outActive_iff]
    cases hos : s.os with
    | off => exact absurd hos hne
    | output1 => exact ⟨.line1, rfl⟩
    | output2 => exact ⟨.line2, rfl⟩
    | output3 => exact ⟨.line3, rfl⟩

end Sys2Proof.Machine
end

section
/-! The machine's INBOUND, which decodes to a command and runs `exec`, and the pseudocode of R101, which asks the
mapping of R65: one step. -/

namespace Sys2Proof.Machine

@[simp] theorem exec_off (s : State) :
    exec .off s = .next { s with os := .off, lc := some 0x00#8, outbuf := ⟨0x00#8, 0xDD#8⟩ } := rfl
@[simp] theorem exec_out1 (s : State) :
    exec .out1 s = .next { s with os := .output1, lc := some 0x11#8, outbuf := ⟨0x11#8, 0xAA#8⟩ } := rfl
@[simp] theorem exec_out2 (s : State) :
    exec .out2 s = .next { s with os := .output2, lc := some 0x22#8, outbuf := ⟨0x22#8, 0xBB#8⟩ } := rfl
@[simp] theorem exec_out3 (s : State) :
    exec .out3 s = .next { s with os := .output3, lc := some 0x33#8, outbuf := ⟨0x33#8, 0xCC#8⟩ } := rfl
@[simp] theorem exec_ign (b : Byte) (s : State) : exec (.ign b) s = .next s := rfl

/-- A command with a row in the table of R53 is the shared block on its byte, its state and its code. -/
theorem exec_of_transition {i : Instr} {b c : Byte} {v : OutputState}
    (htransition : i.transition Config.source = some (v, c)) (hencode : Config.source.encode i = [b]) (s : State) :
    exec i s = acceptCommand b v c s := by
  cases i with
  | ign => cases htransition
  | _ => cases htransition; cases hencode; rfl

theorem exec_decode_of_some {b c : Byte} {v : OutputState} (h : Config.source.decodeCommand b = some (v, c))
    (s : State) : exec (decode b) s = acceptCommand b v c s :=
  exec_of_transition ((transition_decodeInstr Config.source b).trans h) (encode_decodeInstr Config.source b) s

theorem exec_decode_of_none {b : Byte} (h : Config.source.decodeCommand b = none) (s : State) :
    exec (decode b) s = .next s := by
  rw [decode, (decodeInstr_eq_ign_iff Config.source b).mpr ((decodeCommand_eq_none_iff Config.source b).mp h), exec_ign]

/-- The fetch never fails, so INBOUND is the decoded command and then the clear. -/
theorem inbound_eq_exec (s : State) :
    inbound s = andThen (exec (decode s.inbuf) s) fun t => .next (flagClear .inFrame t) := rfl

theorem inbound_eq (s : State) : inbound s = .next (inboundState Config.source s) := by
  rw [inbound_eq_exec]
  obtain ⟨v, c, hdecode, hstate⟩ | ⟨hdecode, hstate⟩ := inboundState_cases Config.source s
  · rw [exec_decode_of_some hdecode, acceptCommand_eq, hstate]
    rfl
  · rw [exec_decode_of_none hdecode, hstate]
    rfl

theorem inbound_eq_inboundWith : inbound = inboundWith Config.source :=
  funext fun s => (inbound_eq s).trans (inboundWith_eq Config.source s).symm

theorem step_eq_stepWith (s : State) : step s = stepWith Config.source s := by
  rw [step, stepWith, inbound_eq_inboundWith]

/-- Settles O27: the two texts of INBOUND are one function, and the dispatcher around them is shared. -/
theorem machineStepIsThePseudocodeStep : Obligations.MachineStepIsThePseudocodeStep := step_eq_stepWith

/-! ### The actions of INBOUND in program order (R40) -/

theorem inboundActions_of_some {cfg : Config} {b c : Byte} {v : OutputState} (h : cfg.decodeCommand b = some (v, c)) :
    inboundActions cfg b =
      [.memRead .signalInput 0 1, .setOutput v, .setLast b, .memWrite .signalOutput 0 [b, c],
        .flagClear .inFrame] := by
  rw [inboundActions, h]
  rfl

theorem inboundActions_of_none {cfg : Config} {b : Byte} (h : cfg.decodeCommand b = none) :
    inboundActions cfg b = [.memRead .signalInput 0 1, .flagClear .inFrame] := by
  rw [inboundActions, h]
  rfl

theorem performAll_inboundActions (cfg : Config) (s : State) :
    performAll (inboundActions cfg s.inbuf) s = inboundWith cfg s := by
  rw [inboundWith_eq]
  obtain ⟨v, c, hdecode, hstate⟩ | ⟨hdecode, hstate⟩ := inboundState_cases cfg s
  · rw [inboundActions_of_some hdecode, hstate]
    rfl
  · rw [inboundActions_of_none hdecode, hstate]
    rfl

/-- The clear of IN_FLAG comes last, after actions that clear no flag. -/
theorem inboundActions_clear_last (cfg : Config) (b : Byte) :
    ∃ before, inboundActions cfg b = before ++ [.flagClear .inFrame] ∧ ∀ f, Action.flagClear f ∉ before := by
  refine ⟨_, rfl, fun f => ?_⟩
  cases cfg.decodeCommand b <;> simp

/-- Settles O25: the two lists of actions, their run, and the clear at their end. -/
theorem inboundRunsItsActionsInOrder : Obligations.InboundRunsItsActionsInOrder :=
  ⟨performAll_inboundActions, fun _ _ _ _ => inboundActions_of_some, fun _ _ => inboundActions_of_none,
    inboundActions_clear_last⟩

end Sys2Proof.Machine
end

section
/-! The machine as a function on states: what each move does (R42, R100 to R103), the step it makes, and runs along an
agenda. -/

namespace Sys2Proof.Machine

/-! ### One move -/

/-- What a move leaves; `moveBy_eq` ties it to the model. -/
def moveState (cfg : Config) : Move → State → State
  | .env e, s => envStep e s
  | .inbound, s => if inboundEnabled s then inboundState cfg s else s
  | .outbound, s => if outboundEnabled s then outbound s else s
  | .block, s => if inboundEnabled s then inboundState cfg s else if outboundEnabled s then outbound s else s

theorem blockStepBy_eq (cfg : Config) (s : State) :
    blockStepBy (inboundWith cfg) s = .next (moveState cfg .block s) := by
  simp only [blockStepBy, moveState, inboundWith_eq, apply_ite Host.Outcome.next]

/-- A move always answers a next state. -/
theorem moveBy_eq (cfg : Config) (m : Move) (s : State) : moveBy (inboundWith cfg) m s = .next (moveState cfg m s) := by
  cases m with
  | env e => rfl
  | inbound => simp only [moveBy, moveState, inboundWith_eq, apply_ite Host.Outcome.next]
  | outbound => simp only [moveBy, moveState, apply_ite Host.Outcome.next]
  | block => exact blockStepBy_eq cfg s

@[simp] theorem moveState_env (cfg : Config) (e : EnvStep) (s : State) : moveState cfg (.env e) s = envStep e s := rfl

theorem moveState_inbound_of_enabled {cfg : Config} {s : State} (h : inboundEnabled s = true) :
    moveState cfg .inbound s = inboundState cfg s := if_pos h

theorem moveState_inbound_of_not_enabled {cfg : Config} {s : State} (h : inboundEnabled s = false) :
    moveState cfg .inbound s = s := by rw [moveState, h]; rfl

theorem moveState_outbound_of_enabled {cfg : Config} {s : State} (h : outboundEnabled s = true) :
    moveState cfg .outbound s = outbound s := if_pos h

theorem moveState_outbound_of_not_enabled {cfg : Config} {s : State} (h : outboundEnabled s = false) :
    moveState cfg .outbound s = s := by rw [moveState, h]; rfl

/-- D10: the block's own choice is INBOUND where that is enabled. -/
theorem moveState_block_of_enabled {cfg : Config} {s : State} (h : inboundEnabled s = true) :
    moveState cfg .block s = inboundState cfg s := if_pos h

/-- D10: the block's own choice is OUTBOUND only where INBOUND is not enabled. -/
theorem moveState_block_of_not_enabled {cfg : Config} {s : State} (h : inboundEnabled s = false) :
    moveState cfg .block s = moveState cfg .outbound s := by simp [moveState, h]

/-- Everything a move can do: the environment's step, INBOUND, OUTBOUND, or nothing where it is not enabled. -/
theorem moveState_cases (cfg : Config) (m : Move) (s : State) :
    (∃ e, m = .env e ∧ moveState cfg m s = envStep e s) ∨
      (inboundEnabled s = true ∧ (m = .inbound ∨ m = .block) ∧ moveState cfg m s = inboundState cfg s) ∨
      (outboundEnabled s = true ∧ (m = .outbound ∨ m = .block ∧ inboundEnabled s = false) ∧
        moveState cfg m s = outbound s) ∨
      moveState cfg m s = s := by
  cases m with
  | env e => exact .inl ⟨e, rfl, rfl⟩
  | inbound =>
    cases hin : inboundEnabled s with
    | true => exact .inr (.inl ⟨rfl, .inl rfl, moveState_inbound_of_enabled hin⟩)
    | false => exact .inr (.inr (.inr (moveState_inbound_of_not_enabled hin)))
  | outbound =>
    cases hout : outboundEnabled s with
    | true => exact .inr (.inr (.inl ⟨rfl, .inl rfl, moveState_outbound_of_enabled hout⟩))
    | false => exact .inr (.inr (.inr (moveState_outbound_of_not_enabled hout)))
  | block =>
    cases hin : inboundEnabled s with
    | true => exact .inr (.inl ⟨rfl, .inr rfl, moveState_block_of_enabled hin⟩)
    | false =>
      rw [moveState_block_of_not_enabled hin]
      cases hout : outboundEnabled s with
      | true => exact .inr (.inr (.inl ⟨rfl, .inr ⟨rfl, rfl⟩, moveState_outbound_of_enabled hout⟩))
      | false => exact .inr (.inr (.inr (moveState_outbound_of_not_enabled hout)))

/-! ### INBOUND and OUTBOUND in Running and in Halted -/

theorem inboundState_of_some {cfg : Config} {s : State} {v : OutputState} {c : Byte}
    (h : cfg.decodeCommand s.inbuf = some (v, c)) :
    inboundState cfg s = { s with os := v, lc := some s.inbuf, outbuf := ⟨s.inbuf, c⟩, inFlag := false } := by
  rw [inboundState, h]

theorem inboundState_of_none {cfg : Config} {s : State} (h : cfg.decodeCommand s.inbuf = none) :
    inboundState cfg s = { s with inFlag := false } := by rw [inboundState, h]

theorem inboundEnabled_of_running {s : State} (h : Running s) : inboundEnabled s = s.inFlag := by
  rw [inboundEnabled, h]
  rfl

theorem outboundEnabled_of_running {s : State} (h : Running s) : outboundEnabled s = s.outFlag := by
  rw [outboundEnabled, h]
  rfl

theorem inboundEnabled_of_halted {s : State} (h : s.run = .halted) : inboundEnabled s = false := by
  rw [inboundEnabled, h]
  rfl

theorem outboundEnabled_of_halted {s : State} (h : s.run = .halted) : outboundEnabled s = false := by
  rw [outboundEnabled, h]
  rfl

/-- In Running an OUTBOUND move leaves OUT_FLAG 0, whether it was enabled or not. -/
theorem moveState_outbound_of_running {cfg : Config} {s : State} (h : Running s) :
    moveState cfg .outbound s = outbound s := by
  cases hflag : s.outFlag with
  | true => exact moveState_outbound_of_enabled ((outboundEnabled_of_running h).trans hflag)
  | false =>
    rw [moveState_outbound_of_not_enabled ((outboundEnabled_of_running h).trans hflag)]
    exact (flagClear_eq_self_of_flagTest_eq_false (f := .outFrame) hflag).symm

theorem inboundEnabled_moveState_outbound (cfg : Config) (s : State) :
    inboundEnabled (moveState cfg .outbound s) = inboundEnabled s := by
  simp only [moveState]
  split <;> rfl

/-- R103, R106: with neither block step enabled a block move changes nothing (log 8). -/
theorem moveState_of_idle {cfg : Config} {s : State} (hin : inboundEnabled s = false) (hout : outboundEnabled s = false)
    (m : Move) (hm : ∀ e, m ≠ .env e) : moveState cfg m s = s := by
  cases m with
  | env e => exact absurd rfl (hm e)
  | inbound => exact moveState_inbound_of_not_enabled hin
  | outbound => exact moveState_outbound_of_not_enabled hout
  | block => rw [moveState_block_of_not_enabled hin, moveState_outbound_of_not_enabled hout]

theorem moveState_of_halted {cfg : Config} {s : State} (h : s.run = .halted) (m : Move) (hm : ∀ e, m ≠ .env e) :
    moveState cfg m s = s :=
  moveState_of_idle (inboundEnabled_of_halted h) (outboundEnabled_of_halted h) m hm

/-! ### One step -/

/-- The move a step makes (log 6): the head of the agenda, or the block's own choice. -/
def nextMove (s : State) : Move := s.agenda.head?.getD .block

theorem nextMove_eq_block {s : State} (h : nextMove s = .block) : s.agenda = [] ∨ s.agenda.head? = some .block := by
  unfold nextMove at h
  cases hagenda : s.agenda with
  | nil => exact .inl rfl
  | cons m rest => rw [hagenda] at h; exact .inr (congrArg some h)

theorem head_of_nextMove {s : State} {m : Move} (h : nextMove s = m) (hm : m ≠ .block) : s.agenda.head? = some m := by
  unfold nextMove at h
  cases hagenda : s.agenda with
  | nil => rw [hagenda] at h; exact absurd h.symm hm
  | cons m' rest => rw [hagenda] at h; exact congrArg some h

/-- What a step leaves: the next move, made on the state with that move taken off the agenda. -/
def stepState (cfg : Config) (s : State) : State := moveState cfg (nextMove s) (popped s)

@[simp] theorem popped_run (s : State) : (popped s).run = s.run := rfl
@[simp] theorem popped_os (s : State) : (popped s).os = s.os := rfl
@[simp] theorem popped_lc (s : State) : (popped s).lc = s.lc := rfl
@[simp] theorem popped_outbuf (s : State) : (popped s).outbuf = s.outbuf := rfl
@[simp] theorem popped_inbuf (s : State) : (popped s).inbuf = s.inbuf := rfl
@[simp] theorem popped_inFlag (s : State) : (popped s).inFlag = s.inFlag := rfl
@[simp] theorem popped_outFlag (s : State) : (popped s).outFlag = s.outFlag := rfl
@[simp] theorem popped_outbufReset (s : State) : (popped s).outbufReset = s.outbufReset := rfl
@[simp] theorem popped_agenda (s : State) : (popped s).agenda = s.agenda.tail := rfl
@[simp] theorem popped_txReads (s : State) : (popped s).txReads = s.txReads := rfl

/-- With an empty agenda there is nothing to take off it. -/
theorem popped_of_agenda_nil {s : State} (h : s.agenda = []) : popped s = s := by
  cases s
  cases h
  rfl

theorem stepWith_of_agenda_nil {cfg : Config} {s : State} (h : s.agenda = []) :
    stepWith cfg s = .next (moveState cfg .block s) := by
  rw [stepWith, stepBy, h]
  exact blockStepBy_eq cfg s

theorem stepWith_of_agenda_cons {cfg : Config} {s : State} {m : Move} {rest : List Move} (h : s.agenda = m :: rest) :
    stepWith cfg s = .next (moveState cfg m { s with agenda := rest }) := by
  rw [stepWith, stepBy, h]
  exact moveBy_eq cfg m _

/-- The same step with the move written at the head of the agenda. -/
theorem stepWith_move (cfg : Config) (m : Move) (s : State) (rest : List Move) :
    stepWith cfg { s with agenda := m :: rest } = .next (moveState cfg m { s with agenda := rest }) :=
  stepWith_of_agenda_cons rfl

theorem stepWith_eq (cfg : Config) (s : State) : stepWith cfg s = .next (stepState cfg s) := by
  unfold stepState nextMove
  cases hagenda : s.agenda with
  | nil => rw [stepWith_of_agenda_nil hagenda, popped_of_agenda_nil hagenda]; rfl
  | cons m rest => rw [stepWith_of_agenda_cons hagenda, popped, hagenda]; rfl

/-- A step answers one state only. -/
theorem eq_stepState {cfg : Config} {s t : State} (h : stepWith cfg s = .next t) : t = stepState cfg s := by
  rw [stepWith_eq] at h
  cases h
  rfl

/-! ### Runs -/

theorem runWith_eq_iterate (cfg : Config) (n : Nat) (s : State) : runWith cfg n s = .next ((stepState cfg)^[n] s) := by
  induction n generalizing s with
  | zero => rfl
  | succ n ih => rw [runWith_succ, stepWith_eq, andThen_next, ih, Function.iterate_succ_apply]

/-- What every step keeps, every run keeps. -/
theorem runWith_keeps {cfg : Config} {P : State → Prop} (hstep : ∀ s, P s → P (stepState cfg s)) {n : Nat}
    {s t : State} (hs : P s) (h : runWith cfg n s = .next t) : P t := by
  rw [runWith_eq_iterate] at h
  cases h
  induction n generalizing s with
  | zero => exact hs
  | succ n ih => exact ih (hstep s hs)

/-- Moves made one after another. -/
def movesState (cfg : Config) (ms : List Move) (s : State) : State := ms.foldl (fun t m => moveState cfg m t) s

@[simp] theorem movesState_nil (cfg : Config) (s : State) : movesState cfg [] s = s := rfl
@[simp] theorem movesState_cons (cfg : Config) (m : Move) (ms : List Move) (s : State) :
    movesState cfg (m :: ms) s = movesState cfg ms (moveState cfg m s) := rfl

theorem movesState_append (cfg : Config) (ms ns : List Move) (s : State) :
    movesState cfg (ms ++ ns) s = movesState cfg ns (movesState cfg ms s) := List.foldl_append

theorem runMoves_eq (cfg : Config) (ms : List Move) (s : State) :
    runMoves (inboundWith cfg) ms s = .next (movesState cfg ms s) := by
  induction ms generalizing s with
  | nil => rfl
  | cons m ms ih => rw [runMoves_cons, moveBy_eq, andThen_next, ih, movesState_cons]

theorem inboundState_setAgenda (cfg : Config) (s : State) (a : List Move) :
    inboundState cfg { s with agenda := a } = { inboundState cfg s with agenda := a } := by
  unfold inboundState
  cases cfg.decodeCommand s.inbuf <;> rfl

theorem envStep_setAgenda (e : EnvStep) (s : State) (a : List Move) :
    envStep e { s with agenda := a } = { envStep e s with agenda := a } := by
  cases e <;> rfl

/-- No move reads or writes the agenda. -/
theorem moveState_setAgenda (cfg : Config) (m : Move) (s : State) (a : List Move) :
    moveState cfg m { s with agenda := a } = { moveState cfg m s with agenda := a } := by
  have hin : inboundEnabled { s with agenda := a } = inboundEnabled s := rfl
  have hout : outboundEnabled { s with agenda := a } = outboundEnabled s := rfl
  cases m with
  | env e => exact envStep_setAgenda e s a
  | inbound =>
    simp only [moveState, hin, inboundState_setAgenda]
    split <;> rfl
  | outbound =>
    simp only [moveState, hout]
    split <;> rfl
  | block =>
    simp only [moveState, hin, hout, inboundState_setAgenda]
    split
    · rfl
    · split <;> rfl

/-- The machine makes the moves that stand first in its agenda and leaves the rest of it. -/
theorem runWith_agenda (cfg : Config) (ms rest : List Move) (s : State) :
    runWith cfg ms.length { s with agenda := ms ++ rest } = .next { movesState cfg ms s with agenda := rest } := by
  induction ms generalizing s with
  | nil => rfl
  | cons m ms ih =>
    rw [List.length_cons, runWith_succ, List.cons_append, stepWith_move, andThen_next, moveState_setAgenda, ih,
      movesState_cons]

/-- Two agendas whose moves lead to one state are two runs with one end. -/
theorem runWith_agenda_congr {cfg : Config} {ms ns : List Move} {s : State}
    (h : movesState cfg ms s = movesState cfg ns s) (rest : List Move) :
    runWith cfg ms.length { s with agenda := ms ++ rest } =
      runWith cfg ns.length { s with agenda := ns ++ rest } := by
  rw [runWith_agenda, runWith_agenda, h]

/-- Settles O47: every move, so every step and every run, has a next state. -/
theorem noStepEverStops : Obligations.NoStepEverStops :=
  ⟨fun s => ⟨_, (step_eq_stepWith s).trans (stepWith_eq Config.source s)⟩,
    fun cfg s => ⟨_, stepWith_eq cfg s⟩, fun cfg n s => ⟨_, runWith_eq_iterate cfg n s⟩⟩

end Sys2Proof.Machine
end

section
/-! The five commands (R66 to R72): what `exec` leaves, and the step from a Running block with the command pending. -/

namespace Sys2Proof.Machine

/-- A command that is pending with an empty agenda runs as the next step: the block takes INBOUND first (D10). -/
theorem step_of_pending {s : State} (hrun : Running s) (hflag : s.inFlag = true) (hagenda : s.agenda = []) :
    step s = .next (inboundState Config.source s) := by
  have henabled : inboundEnabled s = true := (inboundEnabled_iff s).mpr ⟨hrun, hflag⟩
  rw [step_eq_stepWith, stepWith_of_agenda_nil hagenda, moveState_block_of_enabled henabled]

/-- That step for a recognised byte: what the command leaves, with IN_FLAG cleared. -/
theorem step_of_pending_byte {s : State} {b c : Byte} {v : OutputState}
    (hdecode : Config.source.decodeCommand b = some (v, c)) (hrun : Running s) (hflag : s.inFlag = true)
    (hbyte : s.inbuf = b) (hagenda : s.agenda = []) :
    step s = .next { s with os := v, lc := some b, outbuf := ⟨b, c⟩, inFlag := false } := by
  subst hbyte
  rw [step_of_pending hrun hflag hagenda, inboundState_of_some hdecode]

/-- The one next state of a command. -/
theorem eq_of_exec_eq {i : Instr} {s t u : State} (h : exec i s = .next t) (hu : exec i s = .next u) : t = u := by
  rw [h] at hu
  cases hu
  rfl

/-- Settles O8: the equation of `exec`, the lines of its state, and the step. -/
theorem offSetsOffAndReports : Obligations.OffSetsOffAndReports := by
  refine ⟨by decide, exec_off, fun s t h k => ?_, fun s => step_of_pending_byte rfl⟩
  exact outActive_of_os_off (by rw [eq_of_exec_eq h (exec_off s)]) k

/-- Settles O9: the equation of `exec`, the lines of its state, and the step. -/
theorem out1SetsOutput1AndReports : Obligations.Out1SetsOutput1AndReports := by
  refine ⟨by decide, exec_out1, fun s t h => ?_, fun s => step_of_pending_byte rfl⟩
  exact outActive_lines_of_os (v := .output1) (by rw [eq_of_exec_eq h (exec_out1 s)])

/-- Settles O10: the equation of `exec`, the lines of its state, and the step. -/
theorem out2SetsOutput2AndReports : Obligations.Out2SetsOutput2AndReports := by
  refine ⟨by decide, exec_out2, fun s t h => ?_, fun s => step_of_pending_byte rfl⟩
  exact outActive_lines_of_os (v := .output2) (by rw [eq_of_exec_eq h (exec_out2 s)])

/-- Settles O11: the equation of `exec`, the lines of its state, and the step. -/
theorem out3SetsOutput3AndReports : Obligations.Out3SetsOutput3AndReports := by
  refine ⟨by decide, exec_out3, fun s t h => ?_, fun s => step_of_pending_byte rfl⟩
  exact outActive_lines_of_os (v := .output3) (by rw [eq_of_exec_eq h (exec_out3 s)])

/-! ### IGN -/

/-- IGN in the source's configuration: the machine's decoder on an unrecognised byte. -/
theorem decode_eq_ign_iff (b : Byte) : decode b = .ign b ↔ Config.source.recognised b = false :=
  decodeInstr_eq_ign_iff Config.source b

/-- The four literals of R4, written out. -/
theorem not_recognised_source_iff (b : Byte) :
    Config.source.recognised b = false ↔ b ≠ 0x00#8 ∧ b ≠ 0x11#8 ∧ b ≠ 0x22#8 ∧ b ≠ 0x33#8 := by
  rw [← Bool.not_eq_true, recognised_iff]
  simp only [not_or]
  rfl

/-- An ignored byte's INBOUND accesses memory only to read the byte. -/
theorem memWrite_not_mem_inboundActions {b : Byte} (h : decode b = .ign b) (sig : SignalId) (off : Nat)
    (bytes : List Byte) : Action.memWrite sig off bytes ∉ inboundActions Config.source b := by
  rw [inboundActions_of_none ((decodeCommand_eq_none_iff ..).mpr ((decode_eq_ign_iff b).mp h))]
  simp

/-- Settles O12: the ignored bytes are the unrecognised ones; on one of them INBOUND clears the flag and no more. -/
theorem ignChangesNothingAndIsConsumed : Obligations.IgnChangesNothingAndIsConsumed := by
  refine ⟨fun b => ?_, ?_, exec_ign, fun b => memWrite_not_mem_inboundActions, fun s hrun hflag hign hagenda => ?_⟩
  · rw [decode_eq_ign_iff, not_recognised_source_iff]
  · simp only [decode_eq_ign_iff, Bool.decide_eq_false]
    exact countP_unrecognised (by decide)
  · have hnone : Config.source.decodeCommand s.inbuf = none :=
      (decodeCommand_eq_none_iff ..).mpr ((decode_eq_ign_iff _).mp hign)
    rw [step_of_pending hrun hflag hagenda, inboundState_of_none hnone]

/-- Settles O14: the state IGN answers is the state before. -/
theorem ignFrame : Obligations.IgnFrame := by
  intro b s t h
  obtain rfl := eq_of_exec_eq h (exec_ign b s)
  exact ⟨rfl, fun _ _ => rfl⟩

/-! ### Frame and repetition -/

/-- A recognised command writes OS, LC and the payload, and nothing else. -/
theorem exec_recognised {i : Instr} (hi : i ∈ [Instr.off, .out1, .out2, .out3]) (s : State) :
    ∃ v l p, exec i s = .next { s with os := v, lc := l, outbuf := p } := by
  simp only [List.mem_cons, List.not_mem_nil, or_false] at hi
  obtain rfl | rfl | rfl | rfl := hi
  · exact ⟨_, _, _, exec_off s⟩
  · exact ⟨_, _, _, exec_out1 s⟩
  · exact ⟨_, _, _, exec_out2 s⟩
  · exact ⟨_, _, _, exec_out3 s⟩

/-- The payload bytes are all of SignalOutput, so every other address is in SignalInput or holds no byte. -/
theorem readByte_outside_payload (s t : State) (hinbuf : t.inbuf = s.inbuf) {sig : SignalId} {off : Nat}
    (h : ¬(sig = .signalOutput ∧ Config.outOffset ≤ off ∧ off < Config.outOffset + Config.outLen)) :
    readByte sig off t = readByte sig off s := by
  cases sig with
  | signalInput => rw [readByte, readByte, signalBytes, signalBytes, hinbuf]
  | signalOutput =>
    have hoff : SignalId.signalOutput.size ≤ off :=
      not_lt.mp fun hlt => h ⟨rfl, Nat.zero_le off, hlt⟩
    have hnone (u : State) : readByte .signalOutput off u = none :=
      List.getElem?_eq_none (by rw [signalBytes_length]; exact hoff)
    rw [hnone, hnone]

/-- Settles O13: the command's one record update, and the bytes it does not reach. -/
theorem recognisedCommandFrame : Obligations.RecognisedCommandFrame := by
  intro i hi s t h
  obtain ⟨v, l, p, hexec⟩ := exec_recognised hi s
  obtain rfl := eq_of_exec_eq h hexec
  exact ⟨rfl, rfl, rfl, rfl, rfl, rfl, rfl, fun sig off =>
    readByte_outside_payload s { s with os := v, lc := l, outbuf := p } rfl⟩

/-- Handling the same byte again finds the state the first handling left. -/
theorem inboundState_deliver_idem (cfg : Config) (s : State) (b : Byte) :
    inboundState cfg (deliver b (inboundState cfg (deliver b s))) = inboundState cfg (deliver b s) := by
  cases hdecode : cfg.decodeCommand b with
  | none =>
    rw [inboundState_of_none (s := deliver b s) hdecode, inboundState_of_none hdecode]
    rfl
  | some p =>
    rw [inboundState_of_some (s := deliver b s) hdecode, inboundState_of_some hdecode]
    rfl

/-- A delivery to a Running block and the INBOUND move after it. -/
theorem moveState_inbound_deliver (cfg : Config) {s : State} (hrun : Running s) (b : Byte) :
    moveState cfg .inbound (deliver b s) = inboundState cfg (deliver b s) :=
  moveState_inbound_of_enabled ((inboundEnabled_iff _).mpr ⟨hrun, rfl⟩)

/-- Settles O15: each command's writes do not depend on what they overwrite, and a delivery with its INBOUND is one
such command. -/
theorem commandTwiceIsCommandOnce : Obligations.CommandTwiceIsCommandOnce := by
  refine ⟨fun i s => ?_, fun cfg s b rest hrun => ?_⟩
  · cases i with
    | off => exact ⟨_, exec_off s, exec_off _⟩
    | out1 => exact ⟨_, exec_out1 s, exec_out1 _⟩
    | out2 => exact ⟨_, exec_out2 s, exec_out2 _⟩
    | out3 => exact ⟨_, exec_out3 s, exec_out3 _⟩
    | ign b => exact ⟨s, exec_ign b s, exec_ign b s⟩
  · have honce := moveState_inbound_deliver cfg hrun b
    have hrun' : Running (inboundState cfg (deliver b s)) := (inboundState_run cfg _).trans hrun
    have htwice := (moveState_inbound_deliver cfg hrun' b).trans (inboundState_deliver_idem cfg s b)
    refine runWith_agenda_congr (ms := [.env (.deliver b), .inbound, .env (.deliver b), .inbound])
      (ns := [.env (.deliver b), .inbound]) ?_ rest
    simp only [movesState_cons, movesState_nil, moveState_env, envStep_deliver, honce, htwice]

/-- Each output state is that of a row (R72: "reached from every state in one command"). -/
theorem exists_decodeCommand_source (v : OutputState) : ∃ b c, Config.source.decodeCommand b = some (v, c) := by
  cases v with
  | off => exact ⟨0x00#8, _, rfl⟩
  | output1 => exact ⟨0x11#8, _, rfl⟩
  | output2 => exact ⟨0x22#8, _, rfl⟩
  | output3 => exact ⟨0x33#8, _, rfl⟩

/-- Settles O16: the decoder's answer on the byte is all that INBOUND writes. -/
theorem outcomeDependsOnTheByteAlone : Obligations.OutcomeDependsOnTheByteAlone := by
  refine ⟨fun s₁ s₂ hbyte hrec => ?_, fun s hrec => ?_, fun s v => ?_⟩
  · obtain ⟨v, c, hdecode⟩ := decodeCommand_of_recognised hrec
    refine ⟨_, _, inbound_eq s₁, inbound_eq s₂, ?_⟩
    rw [inboundState_of_some hdecode, inboundState_of_some (hbyte ▸ hdecode), hbyte]
    exact ⟨rfl, rfl, rfl⟩
  · refine ⟨_, inbound_eq s, ?_⟩
    rw [inboundState_of_none ((decodeCommand_eq_none_iff ..).mpr hrec)]
    exact ⟨rfl, rfl, rfl⟩
  · obtain ⟨b, c, hdecode⟩ := exists_decodeCommand_source v
    refine ⟨b, _, inbound_eq _, ?_⟩
    rw [inboundState_of_some (s := { s with inbuf := b }) hdecode]

end Sys2Proof.Machine
end

section
/-! The steps of the block and of the environment, one move at a time (R100 to R109, R130). -/

namespace Sys2Proof.Machine

/-- Settles O26: an enabled INBOUND is the machine's `inbound`, which runs the decoded command, whoever chooses it. -/
theorem stepRunsTheDecodedCommand : Obligations.StepRunsTheDecodedCommand := by
  refine ⟨fun s i rest henabled hdecode => ?_, fun s w i hword => ?_⟩
  · obtain ⟨b, hb, rfl⟩ := (decodeBytes_eq_ok_iff ..).mp hdecode
    obtain rfl := List.singleton_inj.mp hb
    have hrun (a : List Move) : andThen (exec (Config.source.decodeInstr s.inbuf) { s with agenda := a })
        (fun t => .next (flagClear .inFrame t)) = .next (inboundState Config.source { s with agenda := a }) :=
      inbound_eq { s with agenda := a }
    have henabled' (a : List Move) : inboundEnabled { s with agenda := a } = true := henabled
    simp only [step_eq_stepWith, hrun]
    refine ⟨stepWith_inbound_of_enabled (henabled' rest), ?_, ?_⟩
    · rw [stepWith_move, moveState_block_of_enabled (henabled' rest)]
    · rw [stepWith_of_agenda_nil rfl, moveState_block_of_enabled (henabled' [])]
  · have hi : decode (tableByte 8 w) = i := Option.some.inj hword
    subst hi
    rw [step_eq_stepWith, stepWith_of_agenda_cons (withFetchWord_agenda s 8 w), moveState_inbound_of_enabled rfl]
    exact (inbound_eq { s with run := .running, inbuf := tableByte 8 w, inFlag := true }).symm

/-- Settles O29: OUTBOUND is enabled, and with IN_FLAG 0 it is also what the block chooses. -/
theorem outboundOnlyAcknowledges : Obligations.OutboundOnlyAcknowledges := by
  intro s rest hrun hflag
  have hout (a : List Move) :
      moveState Config.source .outbound { s with agenda := a } = { s with outFlag := false, agenda := a } :=
    moveState_outbound_of_running hrun
  refine ⟨?_, fun hin => ?_⟩
  · rw [step_eq_stepWith, stepWith_move, hout]
  · have hnot : inboundEnabled { s with agenda := [] } = false := (inboundEnabled_of_running hrun).trans hin
    rw [step_eq_stepWith, stepWith_of_agenda_nil rfl, moveState_block_of_not_enabled hnot, hout]

/-- Settles O33: the environment's step, which sets INBUF and IN_FLAG. -/
theorem deliverStepEffect : Obligations.DeliverStepEffect := by
  intro cfg s b rest
  rw [stepWith_env, envStep_deliver]
  rfl

/-- Settles O35: the environment's step, which writes the record of reads alone. -/
theorem transmitObservesThePayload : Obligations.TransmitObservesThePayload := fun cfg s rest =>
  ⟨_, stepWith_env cfg .tx s rest, rfl, rfl, fun _ => rfl⟩

theorem resetTo_run_eq_running_iff (k : Bool) (r : Payload) (i : Byte) (s : State) :
    (resetTo k r i s).run = .running ↔ k = true := by
  rw [resetTo_run]
  cases k <;> decide

/-- Settles O38: the environment's step, which replaces every field of the block. -/
theorem resetStepEffect : Obligations.ResetStepEffect := fun cfg s k r i rest =>
  ⟨_, stepWith_env cfg (.reset k r i) s rest, rfl, rfl, rfl, rfl, rfl, rfl, rfl, resetTo_run_eq_running_iff k r i _,
    outActive_of_os_off rfl, rfl, rfl⟩

end Sys2Proof.Machine
end

section
/-! What every step keeps (R22, R23, R106): the consistency of OS, LC and OUTBUF, and who may write which field. -/

namespace Sys2Proof.Machine

/-! ### The invariant of R23 and R106 -/

theorem consistent_of_lc_some {cfg : Config} {s : State} {b : Byte} (hlc : s.lc = some b) :
    Consistent cfg s ↔
      s.outbuf = ⟨b, cfg.status s.os⟩ ∧ cfg.decodeCommand b = some (s.os, cfg.status s.os) := by
  rw [Consistent, hlc]

theorem consistent_of_lc_none {cfg : Config} {s : State} (hlc : s.lc = none) :
    Consistent cfg s ↔ s.os = .off ∧ s.outbuf = s.outbufReset := by
  rw [Consistent, hlc]

/-- INBOUND is taken in Running alone; a recognised byte installs a consistent row, any other byte changes none of the
invariant's fields. -/
theorem inv_inboundState {cfg : Config} {s : State} (hrun : Running s) (h : Inv cfg s) :
    Inv cfg (inboundState cfg s) := by
  have hhalted : HaltedUntouched (inboundState cfg s) := fun hstop => by
    rw [inboundState_run, hrun] at hstop
    cases hstop
  refine ⟨?_, hhalted⟩
  obtain ⟨v, c, hdecode, hstate⟩ | ⟨-, hstate⟩ := inboundState_cases cfg s
  · have hc : c = cfg.status v := decodeCommand_status hdecode
    rw [hstate, consistent_of_lc_some rfl, ← hc]
    exact ⟨rfl, hdecode⟩
  · rw [hstate]
    exact h.1

theorem inv_resetTo (cfg : Config) (k : Bool) (r : Payload) (i : Byte) (s : State) : Inv cfg (resetTo k r i s) :=
  ⟨(consistent_of_lc_none rfl).mpr ⟨rfl, rfl⟩, fun _ => rfl⟩

/-- The environment writes no field the invariant speaks of, except by a reset, which establishes it. -/
theorem inv_envStep {cfg : Config} {s : State} (h : Inv cfg s) (e : EnvStep) : Inv cfg (envStep e s) := by
  cases e with
  | deliver b => exact h
  | txrdy => exact h
  | tx => exact h
  | reset k r i => exact inv_resetTo cfg k r i s

theorem stepWith_keeps_inv {cfg : Config} {s t : State} (h : Inv cfg s) (hstep : stepWith cfg s = .next t) :
    Inv cfg t := by
  have hpopped : Inv cfg (popped s) := h
  obtain rfl | ⟨henabled, -, rfl⟩ | ⟨-, -, rfl⟩ | ⟨e, -, rfl⟩ := stepWith_cases hstep
  · exact hpopped
  · exact inv_inboundState ((inboundEnabled_iff s).mp henabled).1 hpopped
  · exact hpopped
  · exact inv_envStep hpopped e

/-- Settles O40: the four kinds of step, each of which keeps the invariant. -/
theorem stepKeepsConsistency : Obligations.StepKeepsConsistency := fun _ _ _ => stepWith_keeps_inv

/-- Settles O39: the machine's reset state is one that a reset leaves, for the free values it shows. -/
theorem resetStateIsConsistent : Obligations.ResetStateIsConsistent :=
  ⟨⟨rfl, rfl, rfl, rfl, rfl⟩, rfl,
    inv_resetTo Config.source true Config.outbufReset Config.inbufReset State.reset,
    fun cfg s k r i => ⟨⟨rfl, rfl, rfl, rfl, rfl⟩, inv_resetTo cfg k r i s⟩⟩

theorem inv_of_reachable {cfg : Config} {s : State} (h : Reachable cfg s) : Inv cfg s := by
  induction h with
  | reset s k r i => exact inv_resetTo cfg k r i s
  | step _ hstep ih => exact stepWith_keeps_inv ih hstep

/-- Settles O41: the invariant read off for each value of LC. -/
theorem reachableStatesAreConsistent : Obligations.ReachableStatesAreConsistent := by
  intro cfg s hreachable
  obtain ⟨hconsistent, hhalted⟩ := inv_of_reachable hreachable
  refine ⟨fun b hlc => ?_, fun hlc => (consistent_of_lc_none hlc).mp hconsistent, hhalted⟩
  obtain ⟨hpayload, hdecode⟩ := (consistent_of_lc_some hlc).mp hconsistent
  exact ⟨recognised_of_decodeCommand hdecode, hpayload, hdecode⟩

/-! ### Who writes which field -/

/-- A step of the environment that is no reset leaves OS, LC, OUTBUF and RUN. -/
theorem envStep_reset_or_keeps (e : EnvStep) (s : State) :
    (∃ k r i, e = .reset k r i) ∨
      ((envStep e s).os = s.os ∧ (envStep e s).lc = s.lc ∧ (envStep e s).outbuf = s.outbuf) ∧
        (envStep e s).run = s.run := by
  cases e with
  | deliver b => exact .inr ⟨⟨rfl, rfl, rfl⟩, rfl⟩
  | txrdy => exact .inr ⟨⟨rfl, rfl, rfl⟩, rfl⟩
  | tx => exact .inr ⟨⟨rfl, rfl, rfl⟩, rfl⟩
  | reset k r i => exact .inl ⟨k, r, i, rfl⟩

/-- R22: OS, LC and OUTBUF are all kept, all written by INBOUND from one row, or all drawn by a reset. -/
theorem stepWith_registers {cfg : Config} {s t : State} (h : stepWith cfg s = .next t) :
    (t.os = s.os ∧ t.lc = s.lc ∧ t.outbuf = s.outbuf) ∨
    (Running s ∧ s.inFlag = true ∧ t.inFlag = false ∧ ∃ v c, cfg.decodeCommand s.inbuf = some (v, c) ∧
      t.os = v ∧ t.lc = some s.inbuf ∧ t.outbuf = ⟨s.inbuf, c⟩) ∨
    ∃ k r i, s.agenda.head? = some (.env (.reset k r i)) ∧ t.os = .off ∧ t.lc = none ∧ t.outbuf = r := by
  obtain rfl | ⟨henabled, -, rfl⟩ | ⟨-, -, rfl⟩ | ⟨e, hhead, rfl⟩ := stepWith_cases h
  · exact .inl ⟨rfl, rfl, rfl⟩
  · obtain ⟨hrun, hflag⟩ := (inboundEnabled_iff s).mp henabled
    obtain ⟨v, c, hdecode, hstate⟩ | ⟨-, hstate⟩ := inboundState_cases cfg (popped s)
    · rw [hstate]
      exact .inr (.inl ⟨hrun, hflag, rfl, v, c, hdecode, rfl, rfl, rfl⟩)
    · rw [hstate]
      exact .inl ⟨rfl, rfl, rfl⟩
  · exact .inl ⟨rfl, rfl, rfl⟩
  · obtain ⟨k, r, i, rfl⟩ | ⟨hkept, -⟩ := envStep_reset_or_keeps e (popped s)
    · exact .inr (.inr ⟨k, r, i, hhead, rfl, rfl, rfl⟩)
    · exact .inl hkept

/-- Settles O42: INBOUND on the decoder's two answers, and the registers after a step of any agent. -/
theorem noPartialUpdate : Obligations.NoPartialUpdate := by
  refine ⟨fun cfg s => ⟨_, inboundWith_eq cfg s, fun v c hdecode => ?_, fun hdecode => ?_⟩,
    fun cfg s t => stepWith_registers⟩
  · rw [inboundState_of_some hdecode]
    exact ⟨rfl, rfl, rfl⟩
  · rw [inboundState_of_none hdecode]
    exact ⟨rfl, rfl, rfl⟩

/-- Settles O21: a payload that INBOUND writes is the recognised byte with the code of its row. -/
theorem onlyTableRowsAreEverWritten : Obligations.OnlyTableRowsAreEverWritten := by
  intro cfg s t h
  obtain ⟨-, -, hkept⟩ | ⟨-, -, -, v, c, hdecode, -, -, hwritten⟩ | ⟨k, r, i, hhead, -, -, hdrawn⟩ :=
    stepWith_registers h
  · exact .inl hkept
  · right; right
    rw [hwritten]
    obtain ⟨hb, -, rfl⟩ | ⟨hb, -, rfl⟩ | ⟨hb, -, rfl⟩ | ⟨hb, -, rfl⟩ := decodeCommand_some_cases hdecode
    all_goals simp [hb]
  · exact .inr (.inl ⟨k, r, i, hhead, hdrawn⟩)

/-- Settles O44: the block's steps keep RUN and INBUF, and of the environment's a reset writes both, DELIVER one. -/
theorem runAndInbufAreTheEnvironments : Obligations.RunAndInbufAreTheEnvironments := by
  intro cfg s t h
  obtain rfl | ⟨-, -, rfl⟩ | ⟨-, -, rfl⟩ | ⟨e, hhead, rfl⟩ := stepWith_cases h
  case inr.inr.inr =>
    cases e with
    | deliver b => exact ⟨fun hne => absurd rfl hne, fun _ => .inl ⟨b, hhead, rfl⟩⟩
    | txrdy => exact ⟨fun hne => absurd rfl hne, fun hne => absurd rfl hne⟩
    | tx => exact ⟨fun hne => absurd rfl hne, fun hne => absurd rfl hne⟩
    | reset k r i => exact ⟨fun _ => ⟨k, r, i, hhead⟩, fun _ => .inr ⟨k, r, i, hhead⟩⟩
  all_goals exact ⟨fun hne => absurd (by simp) hne, fun hne => absurd (by simp) hne⟩

/-! ### Who clears and sets which flag -/

/-- IN_FLAG is cleared by a reset and by INBOUND, as a move or as the block's own choice. -/
theorem moveState_clears_inFlag {cfg : Config} {m : Move} {s : State} (h : s.inFlag = true)
    (h' : (moveState cfg m s).inFlag = false) :
    (∃ k r i, m = .env (.reset k r i)) ∨ Running s ∧ (m = .inbound ∨ m = .block) := by
  obtain ⟨e, rfl, -⟩ | ⟨henabled, hm, -⟩ | ⟨-, -, hstate⟩ | hstate := moveState_cases cfg m s
  · cases e with
    | reset k r i => exact .inl ⟨k, r, i, rfl⟩
    | _ => simp [h] at h'
  · exact .inr ⟨((inboundEnabled_iff s).mp henabled).1, hm⟩
  · simp [hstate, h] at h'
  · simp [hstate, h] at h'

/-- OUT_FLAG is cleared by a reset and by OUTBOUND, as a move or as the block's own choice with IN_FLAG 0. -/
theorem moveState_clears_outFlag {cfg : Config} {m : Move} {s : State} (h : s.outFlag = true)
    (h' : (moveState cfg m s).outFlag = false) :
    (∃ k r i, m = .env (.reset k r i)) ∨ Running s ∧ (m = .outbound ∨ s.inFlag = false ∧ m = .block) := by
  obtain ⟨e, rfl, -⟩ | ⟨-, -, hstate⟩ | ⟨henabled, hm, -⟩ | hstate := moveState_cases cfg m s
  · cases e with
    | reset k r i => exact .inl ⟨k, r, i, rfl⟩
    | _ => simp [h] at h'
  · simp [hstate, h] at h'
  · have hrun : Running s := ((outboundEnabled_iff s).mp henabled).1
    refine .inr ⟨hrun, hm.imp_right fun ⟨hblock, hnot⟩ => ⟨?_, hblock⟩⟩
    rwa [inboundEnabled_of_running hrun] at hnot
  · simp [hstate, h] at h'

/-- IN_FLAG is set by DELIVER, with its byte. -/
theorem moveState_sets_inFlag {cfg : Config} {m : Move} {s : State} (h : s.inFlag = false)
    (h' : (moveState cfg m s).inFlag = true) : ∃ b, m = .env (.deliver b) ∧ (moveState cfg m s).inbuf = b := by
  obtain ⟨e, rfl, -⟩ | ⟨-, -, hstate⟩ | ⟨-, -, hstate⟩ | hstate := moveState_cases cfg m s
  · cases e with
    | deliver b => exact ⟨b, rfl, rfl⟩
    | _ => simp [h] at h'
  all_goals simp [hstate, h] at h'

/-- OUT_FLAG is set by TXRDY. -/
theorem moveState_sets_outFlag {cfg : Config} {m : Move} {s : State} (h : s.outFlag = false)
    (h' : (moveState cfg m s).outFlag = true) : m = .env .txrdy := by
  obtain ⟨e, rfl, -⟩ | ⟨-, -, hstate⟩ | ⟨-, -, hstate⟩ | hstate := moveState_cases cfg m s
  · cases e with
    | txrdy => rfl
    | _ => simp [h] at h'
  all_goals simp [hstate, h] at h'

/-- Settles O43: the move that changes a flag is the step's next move, so it heads the agenda or is the block's own
choice. -/
theorem flagsChangeOnlyByTheirOwnSteps : Obligations.FlagsChangeOnlyByTheirOwnSteps := by
  intro cfg s t h
  obtain rfl := eq_stepState h
  have hhead {m : Move} (hm : nextMove s = m) (hne : m ≠ .block) : s.agenda.head? = some m := head_of_nextMove hm hne
  refine ⟨fun hset hclear => ?_, fun hset hclear => ?_, fun hclear hset => ?_, fun hclear hset => ?_⟩
  · refine (moveState_clears_inFlag (s := popped s) hset hclear).imp ?_ (And.imp_right ?_)
    · exact fun ⟨k, r, i, hm⟩ => ⟨k, r, i, hhead hm nofun⟩
    · rintro (hm | hm)
      · exact .inr (.inl (hhead hm nofun))
      · exact (nextMove_eq_block hm).imp_right .inr
  · refine (moveState_clears_outFlag (s := popped s) hset hclear).imp ?_ (And.imp_right ?_)
    · exact fun ⟨k, r, i, hm⟩ => ⟨k, r, i, hhead hm nofun⟩
    · exact Or.imp (hhead · nofun) (And.imp_right nextMove_eq_block)
  · obtain ⟨b, hm, hbyte⟩ := moveState_sets_inFlag (s := popped s) hclear hset
    exact ⟨b, hhead hm nofun, hbyte⟩
  · exact hhead (moveState_sets_outFlag (s := popped s) hclear hset) nofun

end Sys2Proof.Machine
end

section
/-! The step relation of 43_dispatch.md section 6 against the machine's moves: the same steps, its finite runs (R42) and
its weakly fair ones (R113). -/

namespace Sys2Proof.Machine

variable {cfg : Config} {s t : State}

/-! ### The relation, move by move -/

theorem specStep_inbound_iff :
    SpecStep cfg s .inbound t ↔ inboundEnabled s = true ∧ t = inboundState cfg s := by
  constructor
  · intro h
    cases h with
    | inboundAccept v c hr hf hd => exact ⟨(inboundEnabled_iff s).mpr ⟨hr, hf⟩, (inboundState_of_some hd).symm⟩
    | inboundIgnore hr hf hd => exact ⟨(inboundEnabled_iff s).mpr ⟨hr, hf⟩, (inboundState_of_none hd).symm⟩
  · rintro ⟨henabled, rfl⟩
    obtain ⟨hr, hf⟩ := (inboundEnabled_iff s).mp henabled
    obtain ⟨v, c, hd, hstate⟩ | ⟨hd, hstate⟩ := inboundState_cases cfg s
    · rw [hstate]
      exact .inboundAccept s v c hr hf hd
    · rw [hstate]
      exact .inboundIgnore s hr hf hd

theorem specStep_outbound_iff :
    SpecStep cfg s .outbound t ↔ outboundEnabled s = true ∧ t = outbound s := by
  constructor
  · intro h
    cases h with
    | outbound hr hf => exact ⟨(outboundEnabled_iff s).mpr ⟨hr, hf⟩, rfl⟩
  · rintro ⟨henabled, rfl⟩
    obtain ⟨hr, hf⟩ := (outboundEnabled_iff s).mp henabled
    exact .outbound s hr hf

theorem specStep_env_iff {e : EnvStep} : SpecStep cfg s (.env e) t ↔ t = envStep e s := by
  constructor
  · intro h
    cases h <;> rfl
  · rintro rfl
    cases e with
    | deliver b => exact .deliver s b
    | txrdy => exact .txrdy s
    | tx => exact .tx s
    | reset k r i => exact .reset s k r i

/-- A step of the relation is the machine's move of that name. -/
theorem eq_moveState_of_specStep {m : Move} (h : SpecStep cfg s m t) : t = moveState cfg m s := by
  cases m with
  | env e => exact specStep_env_iff.mp h
  | inbound =>
    obtain ⟨henabled, rfl⟩ := specStep_inbound_iff.mp h
    exact (moveState_inbound_of_enabled henabled).symm
  | outbound =>
    obtain ⟨henabled, rfl⟩ := specStep_outbound_iff.mp h
    exact (moveState_outbound_of_enabled henabled).symm
  | block => cases h

theorem eq_movesState_of_specRun {ms : List Move} (h : SpecRun cfg s ms t) : t = movesState cfg ms s := by
  induction h with
  | nil => rfl
  | cons hstep _ ih => rw [ih, eq_moveState_of_specStep hstep, movesState_cons]

/-- Settles O49: the machine makes the moves of its agenda, and each step of the run is the move of its name. -/
theorem everySpecRunIsAMachineRun : Obligations.EverySpecRunIsAMachineRun := by
  intro cfg s t ms rest h
  rw [runWith_agenda, eq_movesState_of_specRun h]

/-- An INBOUND move of the machine: a step of the relation, or nothing. -/
theorem moveState_inbound_spec (cfg : Config) (s : State) :
    SpecStep cfg s .inbound (moveState cfg .inbound s) ∨
      inboundEnabled s = false ∧ moveState cfg .inbound s = s := by
  cases henabled : inboundEnabled s with
  | true => exact .inl (specStep_inbound_iff.mpr ⟨henabled, moveState_inbound_of_enabled henabled⟩)
  | false => exact .inr ⟨rfl, moveState_inbound_of_not_enabled henabled⟩

/-- An OUTBOUND move of the machine: a step of the relation, or nothing. -/
theorem moveState_outbound_spec (cfg : Config) (s : State) :
    SpecStep cfg s .outbound (moveState cfg .outbound s) ∨
      outboundEnabled s = false ∧ moveState cfg .outbound s = s := by
  cases henabled : outboundEnabled s with
  | true => exact .inl (specStep_outbound_iff.mpr ⟨henabled, moveState_outbound_of_enabled henabled⟩)
  | false => exact .inr ⟨rfl, moveState_outbound_of_not_enabled henabled⟩

/-- The block's own choice: INBOUND, or with it not enabled OUTBOUND, or nothing (D10). -/
theorem moveState_block_spec (cfg : Config) (s : State) :
    SpecStep cfg s .inbound (moveState cfg .block s) ∨
      (inboundEnabled s = false ∧ SpecStep cfg s .outbound (moveState cfg .block s)) ∨
      (inboundEnabled s = false ∧ outboundEnabled s = false ∧ moveState cfg .block s = s) := by
  cases henabled : inboundEnabled s with
  | true => exact .inl (specStep_inbound_iff.mpr ⟨henabled, moveState_block_of_enabled henabled⟩)
  | false =>
    rw [moveState_block_of_not_enabled henabled]
    obtain hstep | ⟨hnot, hsame⟩ := moveState_outbound_spec cfg s
    · exact .inr (.inl ⟨rfl, hstep⟩)
    · exact .inr (.inr ⟨rfl, hnot, hsame⟩)

/-- Settles O48: the step is the move at the head of the agenda, or the block's own choice. -/
theorem everyMachineStepIsASpecStep : Obligations.EveryMachineStepIsASpecStep := by
  intro cfg s t h
  cases hagenda : s.agenda with
  | nil =>
    rw [stepWith_of_agenda_nil hagenda] at h
    cases h
    exact moveState_block_spec cfg s
  | cons m rest =>
    rw [stepWith_of_agenda_cons hagenda] at h
    cases h
    cases m with
    | env e => exact specStep_env_iff.mpr rfl
    | inbound => exact moveState_inbound_spec cfg { s with agenda := rest }
    | outbound => exact moveState_outbound_spec cfg { s with agenda := rest }
    | block => exact moveState_block_spec cfg { s with agenda := rest }

/-! ### Which block steps are enabled (R100, R103, R106) -/

/-- Halted, or Running with both flags 0: no block step is enabled. -/
theorem not_enabled_of_halted_or_quiescent (h : s.run = .halted ∨ Quiescent s) :
    inboundEnabled s = false ∧ outboundEnabled s = false := by
  obtain hhalted | ⟨hin, hout⟩ := h
  · exact ⟨inboundEnabled_of_halted hhalted, outboundEnabled_of_halted hhalted⟩
  · simp [inboundEnabled, outboundEnabled, hin, hout]

/-- Settles O30: the relation's steps need their enabling, and the machine's move without it changes nothing. -/
theorem enabledBlockSteps : Obligations.EnabledBlockSteps := by
  refine ⟨fun cfg s => ?_, fun cfg s => ?_, fun cfg s rest m hm hidle => ?_, fun cfg s hidle hagenda => ?_⟩
  · simp only [specStep_inbound_iff, exists_and_left, exists_eq, and_true, inboundEnabled_iff]
  · simp only [specStep_outbound_iff, exists_and_left, exists_eq, and_true, outboundEnabled_iff]
  · obtain ⟨hin, hout⟩ := not_enabled_of_halted_or_quiescent hidle
    have hblock : ∀ e, m ≠ .env e := by rintro e rfl; simp at hm
    rw [stepWith_move, moveState_of_idle (s := { s with agenda := rest }) hin hout m hblock]
  · obtain ⟨hin, hout⟩ := not_enabled_of_halted_or_quiescent hidle
    rw [stepWith_of_agenda_nil hagenda, moveState_of_idle hin hout .block nofun]

/-! ### Liveness under weak fairness (R113) -/

/-- Only a reset changes RUN, and it leaves both flags 0. -/
theorem specStep_keeps_run_or_clears_flags {m : Move} (h : SpecStep cfg s m t) :
    t.run = s.run ∨ ∀ f, flagTest f t = false := by
  cases h with
  | reset k r i => exact .inr fun f => by cases f <;> rfl
  | _ => exact .inl rfl

variable {states : Nat → State} {acts : Nat → Option Move}

/-- A moment of a fair run: a step, or none. -/
theorem FairRun.step_or_idle (h : FairRun cfg states acts) (n : Nat) :
    (∃ m, SpecStep cfg (states n) m (states (n + 1))) ∨ states (n + 1) = states n := by
  cases hact : acts n with
  | none => exact .inr (h.idles n hact)
  | some m => exact .inl ⟨m, h.follows n m hact⟩

/-- While a flag stays set there is no reset, so the block stays Running. -/
theorem FairRun.running_while_flag_set (h : FairRun cfg states acts) {f : FrameId} {n : Nat}
    (hrun : Running (states n)) (hset : ∀ k, n < k → flagTest f (states k) = true) {k : Nat} (hk : n ≤ k) :
    Running (states k) := by
  induction k, hk using Nat.le_induction with
  | base => exact hrun
  | succ k hk ih =>
    obtain ⟨m, hstep⟩ | hidle := h.step_or_idle k
    · obtain hkept | hclear := specStep_keeps_run_or_clears_flags hstep
      · exact hkept.trans ih
      · exact absurd (hset (k + 1) (Nat.lt_succ_of_le hk)) (by rw [hclear f]; exact Bool.false_ne_true)
    · exact (congrArg State.run hidle).trans ih

/-- A flag whose own block step clears it, and which fairness makes happen if the flag stays set in Running, does not
stay set. -/
theorem FairRun.flag_eventually_clear (h : FairRun cfg states acts) {f : FrameId} {own : Move} {n : Nat}
    (hrun : Running (states n)) (hflag : flagTest f (states n) = true)
    (hfair : (∀ k, n ≤ k → Running (states k) ∧ flagTest f (states k) = true) → ∃ k, n ≤ k ∧ acts k = some own)
    (hclears : ∀ k, SpecStep cfg (states k) own (states (k + 1)) → flagTest f (states (k + 1)) = false) :
    ∃ k, n < k ∧ flagTest f (states k) = false := by
  by_contra hnever
  have hset (k : Nat) (hk : n < k) : flagTest f (states k) = true :=
    (Bool.not_eq_false _).mp fun hclear => hnever ⟨k, hk, hclear⟩
  obtain ⟨k, hk, hact⟩ := hfair fun k hk =>
    ⟨h.running_while_flag_set hrun hset hk, hk.eq_or_lt.elim (fun heq => heq ▸ hflag) (hset k)⟩
  exact hnever ⟨k + 1, Nat.lt_succ_of_le hk, hclears k (h.follows k own hact)⟩

/-- Settles O50: INBOUND is IN_FLAG's own step and OUTBOUND is OUT_FLAG's. -/
theorem pendingEventsAreEventuallyHandled : Obligations.PendingEventsAreEventuallyHandled := by
  intro cfg states acts h n hrun
  refine ⟨fun hflag => h.flag_eventually_clear (f := .inFrame) (own := .inbound) hrun hflag ?_ ?_,
    fun hflag => h.flag_eventually_clear (f := .outFrame) (own := .outbound) hrun hflag ?_ ?_⟩
  · exact fun hall => h.fairIn n fun k hk => (inboundEnabled_iff _).mpr (hall k hk)
  · intro k hstep
    obtain ⟨-, hstate⟩ := specStep_inbound_iff.mp hstep
    rw [hstate, flagTest_inFrame, inboundState_inFlag]
  · exact fun hall => h.fairOut n fun k hk => (outboundEnabled_iff _).mpr (hall k hk)
  · intro k hstep
    obtain ⟨-, hstate⟩ := specStep_outbound_iff.mp hstep
    rw [hstate, flagTest_outFrame, outbound_outFlag]

end Sys2Proof.Machine
end

section
/-! Runs compared: INBOUND and OUTBOUND in either order (R105), deliveries that overrun (R111), a Halted block (R106),
and two runs that differ in a field no output depends on (R13, D4). -/

namespace Sys2Proof.Machine

/-! ### Orders of moves -/

theorem inboundState_outbound (cfg : Config) (s : State) :
    inboundState cfg (outbound s) = outbound (inboundState cfg s) := by
  obtain ⟨v, c, hdecode, hstate⟩ | ⟨hdecode, hstate⟩ := inboundState_cases cfg s
  · rw [hstate, inboundState_of_some (s := outbound s) hdecode]
    rfl
  · rw [hstate, inboundState_of_none (s := outbound s) hdecode]
    rfl

/-- OUTBOUND clears the one flag INBOUND neither reads nor writes. -/
theorem moveState_inbound_outbound (cfg : Config) (s : State) :
    moveState cfg .outbound (moveState cfg .inbound s) = moveState cfg .inbound (moveState cfg .outbound s) := by
  cases hin : inboundEnabled s with
  | false =>
    have hstill : inboundEnabled (moveState cfg .outbound s) = false :=
      (inboundEnabled_moveState_outbound cfg s).trans hin
    rw [moveState_inbound_of_not_enabled hin, moveState_inbound_of_not_enabled hstill]
  | true =>
    have hrun : Running s := ((inboundEnabled_iff s).mp hin).1
    have hrun' : Running (inboundState cfg s) := (inboundState_run cfg s).trans hrun
    rw [moveState_inbound_of_enabled hin, moveState_outbound_of_running hrun, moveState_outbound_of_running hrun',
      moveState_inbound_of_enabled (s := outbound s) hin, inboundState_outbound]

/-- Settles O31: the two moves commute, and the read between them sees OUTBUF after the first. -/
theorem inboundAndOutboundCommute : Obligations.InboundAndOutboundCommute := by
  refine ⟨fun cfg s rest => ⟨_, runWith_agenda cfg [.inbound, .outbound] rest s, ?_⟩,
    fun cfg s v c hrun hin hout hdecode => ⟨_, _, runWith_agenda cfg [.inbound, .env .tx, .outbound] [] s,
      runWith_agenda cfg [.outbound, .env .tx, .inbound] [] s, ?_, ?_⟩⟩
  · have hcommute := moveState_inbound_outbound cfg s
    rw [movesState_cons, movesState_cons, movesState_nil, hcommute]
    exact runWith_agenda cfg [.outbound, .inbound] rest s
  · have hin' : inboundEnabled s = true := (inboundEnabled_iff s).mpr ⟨hrun, hin⟩
    have hrun' : Running (transmit (inboundState cfg s)) := (inboundState_run cfg s).trans hrun
    simp only [movesState_cons, movesState_nil, moveState_env, envStep_tx, moveState_inbound_of_enabled hin',
      moveState_outbound_of_running hrun', outbound_txReads, transmit_txReads, inboundState_txReads]
    rw [inboundState_of_some hdecode]
  · have hin' : inboundEnabled (transmit (outbound s)) = true := (inboundEnabled_iff _).mpr ⟨hrun, hin⟩
    simp only [movesState_cons, movesState_nil, moveState_env, envStep_tx, moveState_outbound_of_running hrun,
      moveState_inbound_of_enabled hin', inboundState_txReads, transmit_txReads, outbound_outbuf, outbound_txReads]

/-- Settles O37: the second delivery overwrites what the first wrote, as the second TXRDY does, and INBOUND clears the
one flag there is. -/
theorem overrunLosesTheFirstCommand : Obligations.OverrunLosesTheFirstCommand := by
  intro cfg s rest hrun
  refine ⟨fun b₁ b₂ => ⟨?_, ?_⟩, ?_⟩
  · exact runWith_agenda_congr (ms := [.env (.deliver b₁), .env (.deliver b₂), .inbound])
      (ns := [.env (.deliver b₂), .inbound]) rfl rest
  · refine runWith_agenda_congr (ms := [.env (.deliver b₁), .env (.deliver b₂), .inbound, .inbound])
      (ns := [.env (.deliver b₂), .inbound]) ?_ rest
    have hoverwrite : deliver b₂ (deliver b₁ s) = deliver b₂ s := rfl
    have hdone : inboundEnabled (inboundState cfg (deliver b₂ s)) = false := by simp [inboundEnabled]
    simp only [movesState_cons, movesState_nil, moveState_env, envStep_deliver, hoverwrite,
      moveState_inbound_deliver cfg hrun, moveState_inbound_of_not_enabled hdone]
  · exact runWith_agenda_congr (ms := [.env .txrdy, .env .txrdy, .outbound]) (ns := [.env .txrdy, .outbound]) rfl rest

/-! ### A Halted block (R106) -/

/-- What stays of a Halted state `s` in `t`: the block's registers, and every flag that was set. -/
def HaltedFrame (s t : State) : Prop :=
  t.run = .halted ∧ t.os = s.os ∧ t.lc = s.lc ∧ t.outbuf = s.outbuf ∧ t.outbufReset = s.outbufReset ∧
    (s.inFlag = true → t.inFlag = true) ∧ (s.outFlag = true → t.outFlag = true)

/-- A move other than a reset keeps the frame: a block move does nothing, and the environment touches none of it. -/
theorem haltedFrame_moveState {s t : State} (h : HaltedFrame s t) {cfg : Config} {m : Move}
    (hm : ∀ k r i, m ≠ .env (.reset k r i)) : HaltedFrame s (moveState cfg m t) := by
  obtain ⟨hrun, hos, hlc, hout, hreset, hin, hoflag⟩ := h
  cases m with
  | env e => cases e with
    | deliver b => exact ⟨hrun, hos, hlc, hout, hreset, fun _ => rfl, hoflag⟩
    | txrdy => exact ⟨hrun, hos, hlc, hout, hreset, hin, fun _ => rfl⟩
    | tx => exact ⟨hrun, hos, hlc, hout, hreset, hin, hoflag⟩
    | reset k r i => exact absurd rfl (hm k r i)
  | inbound | outbound | block =>
    rw [moveState_of_halted hrun]
    · exact ⟨hrun, hos, hlc, hout, hreset, hin, hoflag⟩
    · nofun

theorem moveState_agenda (cfg : Config) (m : Move) (s : State) : (moveState cfg m s).agenda = s.agenda :=
  (congrArg State.agenda (moveState_setAgenda cfg m s s.agenda)).trans rfl

theorem stepState_agenda (cfg : Config) (s : State) : (stepState cfg s).agenda = s.agenda.tail :=
  moveState_agenda cfg (nextMove s) (popped s)

theorem nextMove_ne_reset {s : State} (h : NoReset s.agenda) (k : Bool) (r : Payload) (i : Byte) :
    nextMove s ≠ .env (.reset k r i) := fun hm =>
  h k r i (List.mem_of_mem_head? (head_of_nextMove hm nofun))

/-- Settles O32: a run without a reset in its agenda keeps the frame, step by step. -/
theorem haltedBlockNeverActs : Obligations.HaltedBlockNeverActs := by
  intro cfg n s t hhalted hnoReset hrun
  have hstep (u : State) (hu : HaltedFrame s u ∧ NoReset u.agenda) :
      HaltedFrame s (stepState cfg u) ∧ NoReset (stepState cfg u).agenda := by
    obtain ⟨hframe, hagenda⟩ := hu
    refine ⟨haltedFrame_moveState (t := popped u) hframe (nextMove_ne_reset hagenda), fun k r i hmem => ?_⟩
    rw [stepState_agenda] at hmem
    exact hagenda k r i (List.mem_of_mem_tail hmem)
  have hstart : HaltedFrame s s := ⟨hhalted, rfl, rfl, rfl, rfl, id, id⟩
  exact (runWith_keeps hstep ⟨hstart, hnoReset⟩ hrun).1

/-! ### Two runs that differ in one field -/

/-- A relation of states that every move keeps, if both states make the same moves under it. -/
structure Simulates (cfg : Config) (R : State → State → Prop) : Prop where
  agenda : ∀ {s t}, R s t → t.agenda = s.agenda
  inboundEnabled : ∀ {s t}, R s t → inboundEnabled t = inboundEnabled s
  outboundEnabled : ∀ {s t}, R s t → outboundEnabled t = outboundEnabled s
  popped : ∀ {s t}, R s t → R (popped s) (popped t)
  env : ∀ e {s t}, R s t → R (envStep e s) (envStep e t)
  inbound : ∀ {s t}, R s t → Machine.inboundEnabled s = true → R (inboundState cfg s) (inboundState cfg t)
  outbound : ∀ {s t}, R s t → R (outbound s) (outbound t)

theorem Simulates.moveState_inbound {cfg : Config} {R : State → State → Prop} (h : Simulates cfg R) {s t : State}
    (hst : R s t) : R (moveState cfg .inbound s) (moveState cfg .inbound t) := by
  have hin := h.inboundEnabled hst
  cases henabled : Machine.inboundEnabled s with
  | true =>
    rw [moveState_inbound_of_enabled henabled, moveState_inbound_of_enabled (hin.trans henabled)]
    exact h.inbound hst henabled
  | false =>
    rwa [moveState_inbound_of_not_enabled henabled, moveState_inbound_of_not_enabled (hin.trans henabled)]

theorem Simulates.moveState_outbound {cfg : Config} {R : State → State → Prop} (h : Simulates cfg R) {s t : State}
    (hst : R s t) : R (moveState cfg .outbound s) (moveState cfg .outbound t) := by
  have hout := h.outboundEnabled hst
  cases henabled : Machine.outboundEnabled s with
  | true =>
    rw [moveState_outbound_of_enabled henabled, moveState_outbound_of_enabled (hout.trans henabled)]
    exact h.outbound hst
  | false =>
    rwa [moveState_outbound_of_not_enabled henabled, moveState_outbound_of_not_enabled (hout.trans henabled)]

/-- The block's own choice is the same block step from both states. -/
theorem Simulates.moveState {cfg : Config} {R : State → State → Prop} (h : Simulates cfg R) (m : Move) {s t : State}
    (hst : R s t) : R (moveState cfg m s) (moveState cfg m t) := by
  cases m with
  | env e => exact h.env e hst
  | inbound => exact h.moveState_inbound hst
  | outbound => exact h.moveState_outbound hst
  | block =>
    have hin := h.inboundEnabled hst
    cases henabled : Machine.inboundEnabled s with
    | true =>
      rw [moveState_block_of_enabled henabled, moveState_block_of_enabled (hin.trans henabled)]
      exact h.inbound hst henabled
    | false =>
      rw [moveState_block_of_not_enabled henabled, moveState_block_of_not_enabled (hin.trans henabled)]
      exact h.moveState_outbound hst

theorem Simulates.stepState {cfg : Config} {R : State → State → Prop} (h : Simulates cfg R) {s t : State}
    (hst : R s t) : R (stepState cfg s) (stepState cfg t) := by
  have hmove : nextMove t = nextMove s := by rw [nextMove, nextMove, h.agenda hst]
  rw [Machine.stepState, Machine.stepState, hmove]
  exact h.moveState _ (h.popped hst)

/-- Related states have runs of every length, with related ends. -/
theorem Simulates.runWith {cfg : Config} {R : State → State → Prop} (h : Simulates cfg R) (n : Nat) {s t : State}
    (hst : R s t) : ∃ s' t', runWith cfg n s = .next s' ∧ runWith cfg n t = .next t' ∧ R s' t' := by
  refine ⟨_, _, runWith_eq_iterate cfg n s, runWith_eq_iterate cfg n t, ?_⟩
  induction n generalizing s t with
  | zero => exact hst
  | succ n ih => exact ih (h.stepState hst)

/-- Two states that differ in LC alone. -/
def SameButLc (s t : State) : Prop := ∃ l, t = { s with lc := l }

theorem SameButLc.eq {s t : State} (h : SameButLc s t) : { t with lc := s.lc } = s := by
  obtain ⟨l, rfl⟩ := h
  rfl

/-- INBOUND writes LC or leaves it, and reads it never. -/
theorem simulates_sameButLc (cfg : Config) : Simulates cfg SameButLc := by
  constructor
  case inbound =>
    rintro s _ ⟨l, rfl⟩ -
    obtain ⟨v, c, hdecode, hstate⟩ | ⟨hdecode, hstate⟩ := inboundState_cases cfg s
    · rw [hstate, inboundState_of_some (s := { s with lc := l }) hdecode]
      exact ⟨_, rfl⟩
    · rw [hstate, inboundState_of_none (s := { s with lc := l }) hdecode]
      exact ⟨l, rfl⟩
  case env =>
    rintro e s _ ⟨l, rfl⟩
    cases e with
    | reset k r i => exact ⟨none, rfl⟩
    | deliver b | txrdy | tx => exact ⟨l, rfl⟩
  case popped | outbound =>
    rintro s _ ⟨l, rfl⟩
    exact ⟨l, rfl⟩
  all_goals
    rintro s _ ⟨l, rfl⟩
    rfl

/-- Settles O45: to differ in LC alone is a simulation. -/
theorem lastCommandChangesNoOutput : Obligations.LastCommandChangesNoOutput := by
  intro cfg n s l
  obtain ⟨t, t', ht, ht', hsame⟩ := (simulates_sameButLc cfg).runWith n (s := s) ⟨l, rfl⟩
  exact ⟨t, t', ht, ht', hsame.eq⟩

/-- Two states that differ in INBUF alone, and not even there while IN_FLAG says that a byte is pending. -/
def SameButUnreadInbuf (s t : State) : Prop := ∃ i, t = { s with inbuf := i } ∧ (s.inFlag = true → i = s.inbuf)

theorem SameButUnreadInbuf.refl (s : State) : SameButUnreadInbuf s s := ⟨s.inbuf, rfl, fun _ => rfl⟩

theorem SameButUnreadInbuf.eq {s t : State} (h : SameButUnreadInbuf s t) :
    { t with inbuf := s.inbuf } = s ∧ (s.inFlag = true → t.inbuf = s.inbuf) := by
  obtain ⟨i, rfl, hbyte⟩ := h
  exact ⟨rfl, hbyte⟩

/-- INBOUND, which reads INBUF, is enabled only where the two states are one; DELIVER makes them one. -/
theorem simulates_sameButUnreadInbuf (cfg : Config) : Simulates cfg SameButUnreadInbuf := by
  constructor
  case inbound =>
    rintro s _ ⟨i, rfl, hbyte⟩ henabled
    obtain rfl := hbyte ((inboundEnabled_iff s).mp henabled).2
    exact .refl (inboundState cfg s)
  case env =>
    rintro e s _ ⟨i, rfl, hbyte⟩
    cases e with
    | deliver b => exact ⟨b, rfl, fun _ => rfl⟩
    | reset k r j => exact ⟨j, rfl, fun _ => rfl⟩
    | txrdy | tx => exact ⟨i, rfl, hbyte⟩
  case popped | outbound =>
    rintro s _ ⟨i, rfl, hbyte⟩
    exact ⟨i, rfl, hbyte⟩
  all_goals
    rintro s _ ⟨i, rfl, -⟩
    rfl

/-- Settles O46: to differ in an unread INBUF alone is a simulation. -/
theorem undeliveredInbufIsNeverRead : Obligations.UndeliveredInbufIsNeverRead := by
  intro cfg n s i hflag
  have hstart : SameButUnreadInbuf s { s with inbuf := i } := ⟨i, rfl, fun hset => by simp [hflag] at hset⟩
  obtain ⟨t, t', ht, ht', hsame⟩ := (simulates_sameButUnreadInbuf cfg).runWith n hstart
  exact ⟨t, t', ht, ht', hsame.eq⟩

end Sys2Proof.Machine
end

section
/-! The event script (R59): a line is its moves, a script is its lines, and an `EXPECT` line is a claim alone. -/

namespace Sys2Proof.Machine

/-! ### A waiting line settles -/

/-- The block's own choice with IN_FLAG 0 acknowledges the outbound event, if there is one. -/
theorem moveState_block_of_inFlag_clear {cfg : Config} {s : State} (hrun : Running s) (hin : s.inFlag = false) :
    moveState cfg .block s = outbound s := by
  rw [moveState_block_of_not_enabled ((inboundEnabled_of_running hrun).trans hin), moveState_outbound_of_running hrun]

/-- Two moves of the block's own choice with a command pending: INBOUND, then OUTBOUND. -/
theorem moveState_block_twice_of_pending {cfg : Config} {s : State} (hrun : Running s) (hin : s.inFlag = true) :
    moveState cfg .block (moveState cfg .block s) = outbound (inboundState cfg s) := by
  have hfirst : moveState cfg .block s = inboundState cfg s :=
    moveState_block_of_enabled ((inboundEnabled_of_running hrun).trans hin)
  rw [hfirst, moveState_block_of_inFlag_clear ((inboundState_run cfg s).trans hrun) (inboundState_inFlag cfg s)]

/-- Two block moves handle whatever is pending (log 25). -/
theorem quiescent_moveState_block_twice (cfg : Config) {s : State} (hrun : Running s) :
    Quiescent (moveState cfg .block (moveState cfg .block s)) := by
  cases hin : s.inFlag with
  | true =>
    rw [moveState_block_twice_of_pending hrun hin]
    exact ⟨inboundState_inFlag cfg s, rfl⟩
  | false =>
    have hfirst : moveState cfg .block s = outbound s := moveState_block_of_inFlag_clear hrun hin
    rw [hfirst, moveState_block_of_inFlag_clear (s := outbound s) hrun hin]
    exact ⟨hin, rfl⟩

/-- In Halted they handle nothing. -/
theorem moveState_block_twice_of_halted (cfg : Config) {s : State} (h : s.run = .halted) :
    moveState cfg .block (moveState cfg .block s) = s := by
  have hsame : moveState cfg .block s = s := moveState_of_halted h .block nofun
  rw [hsame, hsame]

/-- Settles O51: the line is one environment step and two block moves, which in Running settle and in Halted do
nothing. -/
theorem waitingScriptLineSettles : Obligations.WaitingScriptLineSettles := by
  intro cfg s rest
  have hcmd (b : Byte) := runWith_agenda cfg ((ScriptLine.cmd b false).moves cfg) rest s
  have htxrdy := runWith_agenda cfg ((ScriptLine.txrdy false).moves cfg) rest s
  refine ⟨fun b hrun => ⟨_, hcmd b, ?_, rfl, ?_⟩, fun hrun => ⟨_, htxrdy, ?_, rfl⟩,
    fun b hhalted => (hcmd b).trans ?_, fun hhalted => htxrdy.trans ?_⟩
  · exact quiescent_moveState_block_twice cfg (s := deliver b s) hrun
  · have hline : movesState cfg ((ScriptLine.cmd b false).moves cfg) s = outbound (inboundState cfg (deliver b s)) :=
      moveState_block_twice_of_pending (s := deliver b s) hrun rfl
    rw [hline]
    refine ⟨inboundState_inbuf cfg (deliver b s), ?_⟩
    cases hdecode : cfg.decodeCommand b with
    | some p =>
      rw [inboundState_of_some (s := deliver b s) hdecode]
      exact ⟨rfl, rfl, rfl⟩
    | none =>
      rw [inboundState_of_none (s := deliver b s) hdecode]
      exact ⟨rfl, rfl, rfl⟩
  · exact quiescent_moveState_block_twice cfg (s := txReady s) hrun
  · have hline : movesState cfg ((ScriptLine.cmd b false).moves cfg) s = deliver b s :=
      moveState_block_twice_of_halted cfg (s := deliver b s) hhalted
    rw [hline]
    rfl
  · have hline : movesState cfg ((ScriptLine.txrdy false).moves cfg) s = txReady s :=
      moveState_block_twice_of_halted cfg (s := txReady s) hhalted
    rw [hline]
    rfl

/-! ### Scripts as moves -/

theorem runScript_eq (cfg : Config) (lines : List ScriptLine) (s : State) :
    runScript cfg lines s = .next (movesState cfg (scriptAgenda cfg lines) s) := runMoves_eq cfg _ s

/-- Settles O54: the agenda's moves and the script's are the same moves. -/
theorem scriptRunIsAMachineRun : Obligations.ScriptRunIsAMachineRun := by
  intro cfg lines s rest
  rw [runWith_agenda, runScript_eq, andThen_next]

/-- The claims of a script: its first line's, then the rest's after that line's moves. -/
theorem scriptHolds_cons (cfg : Config) (l : ScriptLine) (lines : List ScriptLine) (s : State) :
    scriptHolds cfg (l :: lines) s ↔ l.claim s ∧ scriptHolds cfg lines (movesState cfg (l.moves cfg) s) := by
  rw [scriptHolds, runMoves_eq]

theorem scriptHolds_append (cfg : Config) (ls ls' : List ScriptLine) (s : State) :
    scriptHolds cfg (ls ++ ls') s ↔
      scriptHolds cfg ls s ∧ scriptHolds cfg ls' (movesState cfg (scriptAgenda cfg ls) s) := by
  induction ls generalizing s with
  | nil => exact (and_iff_right trivial).symm
  | cons l ls ih => rw [List.cons_append, scriptHolds_cons, ih, scriptHolds_cons, scriptAgenda_cons, movesState_append,
      and_assoc]

/-- An `EXPECT` line adds no move. -/
theorem scriptAgenda_expect (cfg : Config) (claim : State → Prop) (lines : List ScriptLine) :
    scriptAgenda cfg (.expect claim :: lines) = scriptAgenda cfg lines := rfl

theorem scriptHolds_expect (cfg : Config) (claim : State → Prop) (lines : List ScriptLine) (s : State) :
    scriptHolds cfg (.expect claim :: lines) s ↔ claim s ∧ scriptHolds cfg lines s := scriptHolds_cons ..

/-- A line without a claim asks nothing of the state it stands at. -/
theorem scriptHolds_resetOk (cfg : Config) (r : Payload) (i : Byte) (lines : List ScriptLine) (s : State) :
    scriptHolds cfg (.resetOk r i :: lines) s ↔ scriptHolds cfg lines (resetTo true r i s) :=
  (scriptHolds_cons ..).trans (and_iff_right trivial)

theorem scriptHolds_resetFail (cfg : Config) (r : Payload) (i : Byte) (lines : List ScriptLine) (s : State) :
    scriptHolds cfg (.resetFail r i :: lines) s ↔ scriptHolds cfg lines (resetTo false r i s) :=
  (scriptHolds_cons ..).trans (and_iff_right trivial)

/-- Settles O55: scripts in parts, the `EXPECT` line with a claim and no move, the reset line with a move and no
claim. -/
theorem expectIsAClaimAndNoStep : Obligations.ExpectIsAClaimAndNoStep := by
  refine ⟨fun cfg before after claim s => ⟨?_, ?_⟩, fun cfg lines r i => ⟨?_, ?_, ?_, ?_⟩⟩
  · rw [runScript_eq, runScript_eq, scriptAgenda_append, scriptAgenda_append, scriptAgenda_expect]
  · rw [scriptHolds_append, scriptHolds_expect, runScript_eq]
    simp only [Host.Outcome.next.injEq, exists_eq_left']
  · exact runScript_cons cfg _ lines State.reset
  · exact runScript_cons cfg _ lines State.reset
  · exact scriptHolds_resetOk cfg r i lines State.reset
  · exact scriptHolds_resetFail cfg r i lines State.reset

end Sys2Proof.Machine
end

section
/-! The synchronous realisation (R141): its edges against the block's steps, its reset edges and its ports. -/

namespace Sys2Proof.Machine

/-- The registers of the realisation that hold what the block's state holds, `rst` not asserted. -/
def regsOf (s : State) : SyncRegs := ⟨s.run, s.os, s.lc, s.outbuf, false⟩

/-- The register load is INBOUND with the byte at the port. -/
theorem syncLoad_regsOf (cfg : Config) (s : State) : syncLoad cfg s.inbuf (regsOf s) = regsOf (inboundState cfg s) := by
  unfold syncLoad
  cases hdecode : cfg.decodeCommand s.inbuf with
  | some p => rw [inboundState_of_some hdecode]; rfl
  | none => rw [inboundState_of_none hdecode]; rfl

/-- A later edge on the flags and the byte of a state: INBOUND if it is enabled. -/
theorem syncEdge_regsOf (cfg : Config) (r : Payload) (s : State) {p : SyncIn} (hrst : p.rst = false)
    (hbyte : s.inbuf = p.inByte) (hflag : s.inFlag = p.inFlag) :
    syncEdge cfg r (regsOf s) p = regsOf (moveState cfg .inbound s) := by
  rw [syncEdge_later hrst rfl, ← hbyte, ← hflag, syncLoad_regsOf]
  cases henabled : inboundEnabled s with
  | true =>
    rw [moveState_inbound_of_enabled henabled]
    exact if_pos ((inboundEnabled_iff s).mp henabled)
  | false =>
    rw [moveState_inbound_of_not_enabled henabled]
    exact if_neg fun h => by simp [(inboundEnabled_iff s).mpr h] at henabled

theorem regsOf_moveState_outbound (cfg : Config) (s : State) : regsOf (moveState cfg .outbound s) = regsOf s := by
  simp only [moveState]
  split <;> rfl

/-- The clear pulses are given exactly where the block steps are enabled. -/
theorem syncOut_pulses_regsOf (cfg : Config) (r : Payload) (s : State) {p : SyncIn} (hrst : p.rst = false)
    (hin : s.inFlag = p.inFlag) (hout : s.outFlag = p.outFlag) :
    (syncOut cfg r (regsOf s) p).inClear = inboundEnabled s ∧
      (syncOut cfg r (regsOf s) p).outClear = outboundEnabled s := by
  have hacts : syncActs (regsOf s) p = (s.run == .running) := by simp [syncActs, hrst, regsOf]
  simp only [syncOut, hacts, ← hin, ← hout]
  exact ⟨rfl, rfl⟩

/-- IN_FLAG after the two moves: 0 where INBOUND was enabled, else as it was. -/
theorem inFlag_inbound_outbound (cfg : Config) (s : State) :
    (moveState cfg .outbound (moveState cfg .inbound s)).inFlag = (s.inFlag && !inboundEnabled s) := by
  have hkept (u : State) : (moveState cfg .outbound u).inFlag = u.inFlag := by
    simp only [moveState]
    split <;> rfl
  rw [hkept]
  cases henabled : inboundEnabled s with
  | true => rw [moveState_inbound_of_enabled henabled, inboundState_inFlag, Bool.not_true, Bool.and_false]
  | false => rw [moveState_inbound_of_not_enabled henabled, Bool.not_false, Bool.and_true]

/-- OUT_FLAG after the two moves: 0 where OUTBOUND was enabled, else as it was. -/
theorem outFlag_inbound_outbound (cfg : Config) (s : State) :
    (moveState cfg .outbound (moveState cfg .inbound s)).outFlag = (s.outFlag && !outboundEnabled s) := by
  have hkept (u : State) : (moveState cfg .inbound u).outFlag = u.outFlag := by
    simp only [moveState]
    split
    · exact inboundState_outFlag cfg u
    · rfl
  rw [moveState_inbound_outbound, hkept]
  cases henabled : outboundEnabled s with
  | true => rw [moveState_outbound_of_enabled henabled, outbound_outFlag, Bool.not_true, Bool.and_false]
  | false => rw [moveState_outbound_of_not_enabled henabled, Bool.not_false, Bool.and_true]

/-- A reset of one edge and its release leave the registers of R25. -/
theorem syncEdge_reset_released (cfg : Config) (r r' : Payload) {g : SyncRegs} {p q : SyncIn} (hg : g.inReset = false)
    (hp : p.rst = true) (hq : q.rst = false) :
    syncEdge cfg r' (syncEdge cfg r g p) q = ⟨if q.initOk then .running else .halted, .off, none, r, false⟩ := by
  rw [syncEdge_asserted hp, syncEdge_released hq rfl, syncRelease, syncAssert, hg]
  rfl

/-- The state whose flags and INBUF are at the input ports. -/
def State.withPorts (s : State) (p : SyncIn) : State :=
  { s with inFlag := p.inFlag, inbuf := p.inByte, outFlag := p.outFlag }

/-- Settles O52: the edge loads what INBOUND writes and pulses where the block steps are enabled; a reset edge and its
release load R25. -/
theorem clockEdgeIsBothBlockSteps : Obligations.ClockEdgeIsBothBlockSteps := by
  refine ⟨fun cfg r s p hrst => ?_, fun cfg r r' g p q s i => syncEdge_reset_released cfg r r'⟩
  obtain ⟨hinClear, houtClear⟩ := syncOut_pulses_regsOf cfg r (s.withPorts p) hrst rfl rfl
  refine ⟨_, runWith_agenda cfg [.inbound, .outbound] [] (s.withPorts p), ?_, ?_, ?_⟩
  · exact (syncEdge_regsOf cfg r (s.withPorts p) hrst rfl rfl).trans (regsOf_moveState_outbound cfg _).symm
  · exact (inFlag_inbound_outbound cfg (s.withPorts p)).trans (by rw [← hinClear]; rfl)
  · exact (outFlag_inbound_outbound cfg (s.withPorts p)).trans (by rw [← houtClear]; rfl)

/-! ### Reset edges -/

theorem syncActs_of_rst {g : SyncRegs} {p : SyncIn} (h : p.rst = true) : syncActs g p = false := by
  simp [syncActs, h]

theorem syncActs_of_inReset {g : SyncRegs} {p : SyncIn} (h : g.inReset = true) : syncActs g p = false := by
  simp [syncActs, h]

/-- Settles O56: with `rst` asserted and at its release the block does not act, and the edges load what R141 says. -/
theorem resetEdgesLoadAndNeverPulse : Obligations.ResetEdgesLoadAndNeverPulse := by
  refine ⟨fun cfg r g p hrst => ?_, fun cfg r g p hreset hrst => ?_⟩
  · simp only [syncOut, syncEdge_asserted hrst, syncActs_of_rst hrst]
    exact ⟨rfl, rfl, rfl, rfl, rfl⟩
  · simp only [syncOut, syncEdge_released hrst hreset, syncActs_of_inReset hreset]
    exact ⟨rfl, rfl, rfl⟩

/-! ### The ports -/

/-- Byte 0 of the payload in bits 7 to 0 (D16). -/
theorem payloadWord_low (p : Payload) : (payloadWord p).extractLsb' 0 8 = p.echo := BitVec.extractLsb'_append_eq_right

/-- Byte 1 of the payload in bits 15 to 8 (D16). -/
theorem payloadWord_high (p : Payload) : (payloadWord p).extractLsb' 8 8 = p.status := BitVec.extractLsb'_append_eq_left

theorem activeBits_getLsbD (s : State) :
    (activeBits s.os).getLsbD 0 = outActive .line1 s ∧ (activeBits s.os).getLsbD 1 = outActive .line2 s ∧
      (activeBits s.os).getLsbD 2 = outActive .line3 s := by
  unfold outActive
  cases s.os <;> decide

theorem osCode_injective {u v : OutputState} (h : osCode u = osCode v) : u = v := by
  revert h
  cases u <;> cases v <;> decide

/-- Settles O53: the ports are functions of the registers the edge leaves, read back bit by bit. -/
theorem portsShowTheRegisters : Obligations.PortsShowTheRegisters :=
  ⟨fun _ _ _ _ => ⟨rfl, payloadWord_low _, payloadWord_high _, rfl, rfl⟩, activeBits_getLsbD,
    fun p => ⟨payloadWord_low p, payloadWord_high p⟩, fun _ _ => osCode_injective, rfl, rfl, rfl, rfl⟩

end Sys2Proof.Machine
end
